-- ==== Sys2Proof/Word.lean ====
section
/-! DEFINITION. The data widths of the block (00_scope.md R5, R9; 20_memory.md R71): bytes and 16-bit words. -/

namespace Sys2Proof

/-- A byte, 8 bits, bit 0 the least significant (R9). `UNIT_WIDTH` is 8 (R5; `config.unitWidth`). -/
abbrev Byte := BitVec 8

/-- A 16-bit word: `TID_WIDTH`, `ADDR_WIDTH`, `QTY_WIDTH` and `REG_WIDTH` are all 16 (R5; the width
fields of `config`). -/
abbrev Word := BitVec 16

end Sys2Proof
end

