-- ==== Sys2Proof/Config.lean ====
section
/-! DEFINITION. The parameters of the block (00_scope.md R5) and the values this hardware takes. -/

namespace Sys2Proof

/-- The parameters of R5, and the sizes of the two result buffers. The five widths are fields here and the
types of Word.lean; Laws/Config.lean proves that the two agree on this hardware (log entry 21). -/
structure Config where
  /-- `TID_WIDTH`: bits of the transaction counter. -/
  tidWidth : Nat
  /-- `ADDR_WIDTH`: bits of `startAddress`. -/
  addrWidth : Nat
  /-- `QTY_WIDTH`: bits of `quantity`. -/
  qtyWidth : Nat
  /-- `REG_WIDTH`: bits of a register word. -/
  regWidth : Nat
  /-- `UNIT_WIDTH`: bits of `unitId`. -/
  unitWidth : Nat
  /-- `MAX_RD_BITS`: largest quantity of ReadCoils and ReadDiscreteInputs. -/
  maxRdBits : Nat
  /-- `MAX_WR_BITS`: largest quantity of WriteMultipleCoils. -/
  maxWrBits : Nat
  /-- `MAX_RD_REGS`: largest quantity of ReadHoldingRegisters and ReadInputRegisters. -/
  maxRdRegs : Nat
  /-- `MAX_WR_REGS`: largest quantity of WriteMultipleRegisters. -/
  maxWrRegs : Nat
  /-- `UNIT_ID_RESET`: reset value of `CFG_UNIT`. -/
  unitIdReset : Byte
  /-- `TID_RESET`: reset value of `TID`. -/
  tidReset : Word
  /-- `TXB_SIZE`: bytes in the transmit frame buffer (R61). -/
  txbSize : Nat
  /-- `RXB_SIZE`: bytes in the receive frame buffer (R62). -/
  rxbSize : Nat
  /-- `PROTOCOL_ID`: the MBAP protocol identifier of every frame (R91). -/
  protocolId : Word
  /-- Elements of `RES_BITS` (R33, R60). -/
  resBitsSize : Nat
  /-- Elements of `RES_WORDS` (R33, R60). -/
  resWordsSize : Nat
  deriving DecidableEq, Repr

/-- The "value" column of R5. `TID_RESET` and the four limits are open parameters with these
defaults (92_eei_decisions.md D1, D6; log entry 15). -/
def config : Config where
  tidWidth := 16
  addrWidth := 16
  qtyWidth := 16
  regWidth := 16
  unitWidth := 8
  maxRdBits := 2000
  maxWrBits := 2000
  maxRdRegs := 125
  maxWrRegs := 125
  unitIdReset := 1
  tidReset := 0
  txbSize := 263
  rxbSize := 259
  protocolId := 0
  resBitsSize := 2000
  resWordsSize := 125

/-- The constraint R5 puts on the four limits "if a model lets them vary": the one-byte
`byteCount` field must hold `ceil(quantity/8)` or `2*quantity`. -/
def Config.limitsFit (k : Config) : Bool :=
  decide (k.maxRdBits ≤ 2040) && decide (k.maxWrBits ≤ 2040) &&
  decide (k.maxRdRegs ≤ 127) && decide (k.maxWrRegs ≤ 127)

/-- The widths are the ones Word.lean gives the types: every register, operand and field of those names has
its width fixed there (R5, R9; 20_memory.md R71). -/
def Config.widthsFit (k : Config) : Bool :=
  decide (k.tidWidth = 16) && decide (k.addrWidth = 16) && decide (k.qtyWidth = 16) &&
  decide (k.regWidth = 16) && decide (k.unitWidth = 8)

end Sys2Proof
end

