-- ==== Sys2Proof/Syntax.lean ====
section
/-! DEFINITION. The instructions, one constructor per row of spec/opcode_table.json, and the records the
ports carry (10_state.md R22, 30_encoding.md R106 to R114, 44_dispatcher.md R230, R231). -/

namespace Sys2Proof

/-- The closed enumeration of the eight function codes (00_scope.md R11). -/
inductive FunctionCode where
  | readCoils | readDiscreteInputs | readHoldingRegisters | readInputRegisters
  | writeSingleCoil | writeSingleRegister | writeMultipleCoils | writeMultipleRegisters
  deriving DecidableEq, Repr

/-- What a response frame carries beside the protocol identifier (0 in every row of the table) and
the function code (the row's own): the MBAP fields of R91 and the bytes from offset 8 on. -/
structure RspFrame where
  /-- `transactionId`, offsets 0 and 1. -/
  tid : Word
  /-- `length`, offsets 4 and 5. -/
  length : Word
  /-- `unitId`, offset 6. -/
  unit : Byte
  /-- Offset 8 onward: `byteCount` and payload (R96, R99), the echoed fields (R100), or the exception
  code (R101). A received frame may hold fewer or more bytes than its format asks. -/
  body : List Byte
  deriving DecidableEq, Repr

/-- The rows of spec/opcode_table.json. A request carries the command's operands (R22), a response
row the received frame, a conversion its operands (R114). -/
inductive Instr where
  | readCoils (addr qty : Word)
  | readDiscreteInputs (addr qty : Word)
  | readHoldingRegisters (addr qty : Word)
  | readInputRegisters (addr qty : Word)
  | writeSingleCoil (addr : Word) (coil : Bool)
  | writeSingleRegister (addr value : Word)
  | writeMultipleCoils (addr qty : Word) (bits : List Bool)
  | writeMultipleRegisters (addr qty : Word) (words : List Word)
  | readCoilsRsp (r : RspFrame)
  | readDiscreteInputsRsp (r : RspFrame)
  | readHoldingRegistersRsp (r : RspFrame)
  | readInputRegistersRsp (r : RspFrame)
  | writeSingleCoilRsp (r : RspFrame)
  | writeSingleRegisterRsp (r : RspFrame)
  | writeMultipleCoilsRsp (r : RspFrame)
  | writeMultipleRegistersRsp (r : RspFrame)
  | readCoilsExc (r : RspFrame)
  | readDiscreteInputsExc (r : RspFrame)
  | readHoldingRegistersExc (r : RspFrame)
  | readInputRegistersExc (r : RspFrame)
  | writeSingleCoilExc (r : RspFrame)
  | writeSingleRegisterExc (r : RspFrame)
  | writeMultipleCoilsExc (r : RspFrame)
  | writeMultipleRegistersExc (r : RspFrame)
  | r2fLH (words : List Word)
  | r2fHL (words : List Word)
  | s16 (word : Word)
  deriving DecidableEq, Repr

/-- The command port's record, the flat view of R22. `op` is the function-code number (R113). A field
an op does not use is ignored. -/
structure Command where
  op : Byte
  addr : Word
  qty : Word
  coil : Bool
  value : Word
  bits : List Bool
  words : List Word
  deriving DecidableEq, Repr

/-- The conversion port's inputs (R114): `conv_op`, the sequence that R2F reads, the word that S16 reads. -/
structure ConvInput where
  op : BitVec 2
  words : List Word
  word : Word
  deriving DecidableEq, Repr

/-- An encoded instruction and the port it belongs to: a row of the table is selected by direction and
bits, never by bits alone (R107). -/
inductive Encoded where
  /-- A frame the block builds. -/
  | request (frame : List Byte)
  /-- A frame the block receives, already delimited (R92). -/
  | response (raw : List Byte)
  /-- The conversion port, which has no frame (R107). -/
  | conv (p : ConvInput)
  deriving DecidableEq, Repr

/-- What a host may read (10_state.md R34; the buffers TXB and RXB are not among it). -/
inductive HostReg where
  | tid | phase | cfgUnit | pendTid | pendUnit | pendFc | pendAddr | pendQv
  | txLen | rxExpect | rxLen | resValid | resStatus | resDetail | resExc | resOk | resKind | resCount
  /-- `RES_BITS[i]`. -/
  | resBit (i : Nat)
  /-- `RES_WORDS[i]`. -/
  | resWord (i : Nat)
  deriving DecidableEq, Repr

/-- The events of R230: what HOST and TRANSPORT can do to the block. -/
inductive Input where
  /-- `CMD(c)`, HOST (R232). -/
  | cmd (c : Command)
  /-- `SetUnit(u)`, HOST (R238). -/
  | setUnit (u : Byte)
  /-- A host read (R239). -/
  | read (r : HostReg)
  /-- A conversion-port operation, HOST (R254). -/
  | conv (p : ConvInput)
  /-- `Reset`, HOST (70_reset_and_hazards.md R310). -/
  | reset
  /-- `TX_DONE(ok)`, TRANSPORT (R233). -/
  | txDone (ok : Bool)
  /-- `RX_FRAME(raw)`, TRANSPORT (R234). -/
  | rxFrame (raw : List Byte)
  /-- `RX_FAIL`, TRANSPORT (R235). -/
  | rxFail
  /-- `RX_TIMEOUT`, TRANSPORT (R236). -/
  | rxTimeout
  /-- `ABORT`, TRANSPORT (R237). -/
  | abort
  deriving DecidableEq, Repr

end Sys2Proof
end

