-- ==== Sys2Proof/Machine/Operands.lean ====
section
/-! DEFINITION. Every operand form of the frames: byte order, bit order, field assembly and extraction
(20_memory.md R67 to R71; 30_encoding.md R97, R98, R102 to R105, R112; 42_register_conversion.md). -/

namespace Sys2Proof.Machine

/-- `hi(v)` = `v[15:8]` (00_scope.md R10). -/
def hi (v : Word) : Byte := v.extractLsb' 8 8

/-- `lo(v)` = `v[7:0]` (R10). -/
def lo (v : Word) : Byte := v.extractLsb' 0 8

/-- `BE16(b0, b1)` = `b0 * 256 + b1`, `b0` first on the wire (R10, R67). -/
def be16 (b0 b1 : Byte) : Word := b0 ++ b1

/-- The byte at offset `k` of a frame. Every rule guards its reads, so the 0 for an offset past the
end is never used (41_response_decode.md R178). -/
def byteAt (raw : List Byte) (k : Nat) : Byte := raw.getD k 0

/-- The 16-bit field at offset `k` (R67, R102). -/
def wordAt (raw : List Byte) (k : Nat) : Word := be16 (byteAt raw k) (byteAt raw (k + 1))

/-- The first eight bytes as the 64-bit number of R107, byte 0 in bits 63:56. -/
def first8 (raw : List Byte) : BitVec 64 :=
  be16 (byteAt raw 0) (byteAt raw 1) ++ be16 (byteAt raw 2) (byteAt raw 3) ++
  be16 (byteAt raw 4) (byteAt raw 5) ++ be16 (byteAt raw 6) (byteAt raw 7)

/-- `ceil(q/8) = (q + 7) div 8`, exact on naturals (R97; R207 b). -/
def bitsByteCount (qty : Word) : Nat := (qty.toNat + 7) / 8

/-- `2*q` (R98; R207 c). -/
def regsByteCount (qty : Word) : Nat := 2 * qty.toNat

/-- The single-coil operand: ON is 0xFF00, OFF is 0x0000 (R103). -/
def coilValue (coil : Bool) : Word := if coil then 0xFF00 else 0x0000

/-- Item `i` of a bit payload if the quantity `q` covers it (R104). -/
def itemBit (bits : List Bool) (q i : Nat) : Nat := if i < q then (bits.getD i false).toNat else 0

/-- `P[j]`, the sum over `b` in 0..7 with `8*j + b < q` of `bits[8*j + b] * 2^b` (R104). -/
def packByte (bits : List Bool) (q j : Nat) : Byte :=
  BitVec.ofNat 8 (itemBit bits q (8*j) + itemBit bits q (8*j+1) * 2 + itemBit bits q (8*j+2) * 4 +
    itemBit bits q (8*j+3) * 8 + itemBit bits q (8*j+4) * 16 + itemBit bits q (8*j+5) * 32 +
    itemBit bits q (8*j+6) * 64 + itemBit bits q (8*j+7) * 128)

/-- The packed coils of REQ_MCOILS, `P[0 .. bc-1]` (R94, R104). -/
def packBits (qty : Word) (bits : List Bool) : List Byte :=
  (List.range (bitsByteCount qty)).map (packByte bits qty.toNat)

/-- The register payload of REQ_MREGS: each word's high byte, then its low byte (R105). -/
def packWords : List Word → List Byte
  | [] => []
  | w :: ws => hi w :: lo w :: packWords ws

/-- Items `0 .. q-1` of a packed payload: item `i` is bit `i mod 8` of byte `i div 8` (R68, R169). The
padding bits of the last byte are not read (R112). -/
def unpackBits (q : Nat) (payload : List Byte) : List Bool :=
  (List.range q).map fun i => (byteAt payload (i / 8)).getLsbD (i % 8)

/-- Words `0 .. q-1` of a register payload, each from its own two bytes (R99, R171, R181). -/
def unpackWords (q : Nat) (payload : List Byte) : List Word :=
  (List.range q).map fun i => wordAt payload (2 * i)

/-- `B` with `B[31:16] = words[1]` and `B[15:0] = words[0]` (R201). -/
def composeLowHigh (w0 w1 : Word) : BitVec 32 := w1 ++ w0

/-- `B` with `B[31:16] = words[0]` and `B[15:0] = words[1]` (R202). -/
def composeHighLow (w0 w1 : Word) : BitVec 32 := w0 ++ w1

/-- `sext_32(w)`, the port value of the signed reading (R204). -/
def signedReading (w : Word) : BitVec 32 := w.signExtend 32

end Sys2Proof.Machine
end

