-- ==== Sys2Proof/WellFormed.lean ====
section
/-! DEFINITION. What the formats of 30_encoding.md can carry. A command that is not well formed is still a
command: its meaning completes with EncodingError (40_request_encode.md R131). -/

namespace Sys2Proof

/-- The payload of REQ_MCOILS has `quantity` items and its one-byte `byteCount` (R97) can hold their
packed size: at most 2040 items (R5). -/
def coilsFit (qty : Word) (bits : List Bool) : Bool :=
  decide (bits.length = qty.toNat) && decide (qty.toNat ≤ 2040)

/-- The payload of REQ_MREGS has `quantity` words and its one-byte `byteCount` (R98) can hold their
size: at most 127 words (R5). -/
def wordsFit (qty : Word) (words : List Word) : Bool :=
  decide (words.length = qty.toNat) && decide (qty.toNat ≤ 127)

/-- The RSP_ECHO rows have `length` = 6 in their mask (R100, R107). -/
def echoLength (r : RspFrame) : Bool := decide (r.length = 6)

/-- The instructions that an encoding of 30_encoding.md carries whole. -/
def Instr.wellFormed : Instr → Bool
  | .readCoils _ _ | .readDiscreteInputs _ _ | .readHoldingRegisters _ _ | .readInputRegisters _ _ => true
  | .writeSingleCoil _ _ | .writeSingleRegister _ _ => true
  | .writeMultipleCoils _ qty bits => coilsFit qty bits
  | .writeMultipleRegisters _ qty words => wordsFit qty words
  | .readCoilsRsp _ | .readDiscreteInputsRsp _ | .readHoldingRegistersRsp _ | .readInputRegistersRsp _ => true
  | .writeSingleCoilRsp r | .writeSingleRegisterRsp r => echoLength r
  | .writeMultipleCoilsRsp r | .writeMultipleRegistersRsp r => echoLength r
  | .readCoilsExc _ | .readDiscreteInputsExc _ | .readHoldingRegistersExc _ | .readInputRegistersExc _ => true
  | .writeSingleCoilExc _ | .writeSingleRegisterExc _ => true
  | .writeMultipleCoilsExc _ | .writeMultipleRegistersExc _ => true
  | .r2fLH _ | .r2fHL _ | .s16 _ => true

/-- The payload lengths a command record can have: 0 to 65535 (10_state.md R22). -/
def Command.wellFormed (c : Command) : Bool :=
  decide (c.bits.length ≤ 65535) && decide (c.words.length ≤ 65535)

end Sys2Proof
end

