-- ==== Sys2Proof/Decode.lean ====
section
/-! DEFINITION. The decoders of the ports and of the frames (30_encoding.md R90 to R116), then the encoders,
then the opcode table's rows and the reading of a table word. -/

namespace Sys2Proof

open Machine

/-- Why bits are no instruction. -/
inductive DecodeError where
  /-- Fewer bytes than the format has (R90, R108, 41_response_decode.md R161). -/
  | tooShort
  /-- The protocol identifier is not `PROTOCOL_ID`, 0 (R91, R111). -/
  | protocolId
  /-- The function-code byte selects no row (R106, R109, R110). -/
  | functionCode
  /-- The `length` field is not the one the row's mask asks (R107), or disagrees with the frame's size (R108). -/
  | length
  /-- A single-coil value that is neither 0xFF00 nor 0x0000 (R103). -/
  | coilValue
  /-- A request's `byteCount` disagrees with its quantity (R97, R98). -/
  | byteCount
  /-- A command whose `op` is reserved (R109). -/
  | reservedOp
  /-- `conv_op` = 11 (R114). -/
  | reservedConvOp
  deriving DecidableEq, Repr

/-- The number of a function code (00_scope.md R11). -/
def FunctionCode.toByte : FunctionCode → Byte
  | .readCoils => 0x01
  | .readDiscreteInputs => 0x02
  | .readHoldingRegisters => 0x03
  | .readInputRegisters => 0x04
  | .writeSingleCoil => 0x05
  | .writeSingleRegister => 0x06
  | .writeMultipleCoils => 0x0F
  | .writeMultipleRegisters => 0x10

/-- The opcode map of R106: eight of the 256 values of the byte. -/
def FunctionCode.ofByte? (b : Byte) : Option FunctionCode :=
  if b = 0x01 then some .readCoils
  else if b = 0x02 then some .readDiscreteInputs
  else if b = 0x03 then some .readHoldingRegisters
  else if b = 0x04 then some .readInputRegisters
  else if b = 0x05 then some .writeSingleCoil
  else if b = 0x06 then some .writeSingleRegister
  else if b = 0x0F then some .writeMultipleCoils
  else if b = 0x10 then some .writeMultipleRegisters
  else none

/-- The command port: `op` selects the operation (R113), the fields it does not use are ignored (R22). -/
def decodeCommand (c : Command) : Except DecodeError Instr :=
  match FunctionCode.ofByte? c.op with
  | none => .error .reservedOp
  | some .readCoils => .ok (.readCoils c.addr c.qty)
  | some .readDiscreteInputs => .ok (.readDiscreteInputs c.addr c.qty)
  | some .readHoldingRegisters => .ok (.readHoldingRegisters c.addr c.qty)
  | some .readInputRegisters => .ok (.readInputRegisters c.addr c.qty)
  | some .writeSingleCoil => .ok (.writeSingleCoil c.addr c.coil)
  | some .writeSingleRegister => .ok (.writeSingleRegister c.addr c.value)
  | some .writeMultipleCoils => .ok (.writeMultipleCoils c.addr c.qty c.bits)
  | some .writeMultipleRegisters => .ok (.writeMultipleRegisters c.addr c.qty c.words)

/-- The conversion port (R114). -/
def decodeConv (p : ConvInput) : Except DecodeError Instr :=
  if p.op = 0b00 then .ok (.r2fLH p.words)
  else if p.op = 0b01 then .ok (.r2fHL p.words)
  else if p.op = 0b10 then .ok (.s16 p.word)
  else .error .reservedConvOp

/-- A REQ_FIXED frame (R93): the row's mask binds `length` to 6 (R107). The operand at offset 10 is given
to `build`. -/
def decodeFixed (raw : List Byte) (build : Word → Except DecodeError Instr) :
    Except DecodeError (Instr × List Byte) :=
  if wordAt raw 4 = 6 then (build (wordAt raw 10)).map fun i => (i, raw.drop 12)
  else .error .length

/-- A multiple-write frame (R94, R95): 13 + `byteCount` bytes (R108). -/
def decodeMulti (raw : List Byte) (bc : Nat) (i : Instr) : Except DecodeError (Instr × List Byte) :=
  if (byteAt raw 12).toNat = bc then
    if 13 + bc ≤ raw.length then .ok (i, raw.drop (13 + bc)) else .error .tooShort
  else .error .byteCount

/-- The single-coil operand of a request (R103). -/
def decodeCoil (addr v : Word) : Except DecodeError Instr :=
  if v = 0xFF00 then .ok (.writeSingleCoil addr true)
  else if v = 0x0000 then .ok (.writeSingleCoil addr false)
  else .error .coilValue

/-- The request row that the head of a byte stream matches, and the bytes after the parts that the row's format
has (R90, R93 to R95, R106, R108). As in the table, `length` is looked at only where the row's mask binds it
(R107). -/
def decodeRequestRow (raw : List Byte) : Except DecodeError (Instr × List Byte) :=
  if raw.length < 12 then .error .tooShort
  else if wordAt raw 2 ≠ config.protocolId then .error .protocolId
  else
    match FunctionCode.ofByte? (byteAt raw 7) with
    | none => .error .functionCode
    | some .readCoils => decodeFixed raw fun v => .ok (.readCoils (wordAt raw 8) v)
    | some .readDiscreteInputs => decodeFixed raw fun v => .ok (.readDiscreteInputs (wordAt raw 8) v)
    | some .readHoldingRegisters => decodeFixed raw fun v => .ok (.readHoldingRegisters (wordAt raw 8) v)
    | some .readInputRegisters => decodeFixed raw fun v => .ok (.readInputRegisters (wordAt raw 8) v)
    | some .writeSingleCoil => decodeFixed raw fun v => decodeCoil (wordAt raw 8) v
    | some .writeSingleRegister => decodeFixed raw fun v => .ok (.writeSingleRegister (wordAt raw 8) v)
    | some .writeMultipleCoils =>
      decodeMulti raw (bitsByteCount (wordAt raw 10))
        (.writeMultipleCoils (wordAt raw 8) (wordAt raw 10)
          (unpackBits (wordAt raw 10).toNat (raw.drop 13)))
    | some .writeMultipleRegisters =>
      decodeMulti raw (regsByteCount (wordAt raw 10))
        (.writeMultipleRegisters (wordAt raw 8) (wordAt raw 10)
          (unpackWords (wordAt raw 10).toNat (raw.drop 13)))

/-- The size of a request frame that begins with these bytes (R108). -/
def requestSize (raw : List Byte) : Nat :=
  match FunctionCode.ofByte? (byteAt raw 7) with
  | none => 12
  | some .readCoils | some .readDiscreteInputs => 12
  | some .readHoldingRegisters | some .readInputRegisters => 12
  | some .writeSingleCoil | some .writeSingleRegister => 12
  | some .writeMultipleCoils | some .writeMultipleRegisters => 13 + (byteAt raw 12).toNat

/-- A request frame at the head of a byte stream: the instruction and the bytes after the frame. The size that
its parts give must agree with the `length` field, in every format (R92, R108). -/
def decodeRequest (raw : List Byte) : Except DecodeError (Instr × List Byte) :=
  match decodeRequestRow raw with
  | .error e => .error e
  | .ok x => if (wordAt raw 4).toNat + 6 = requestSize raw then .ok x else .error .length

/-- The fields of a received frame (R91); its protocol identifier and function code select the row. -/
def rspFields (raw : List Byte) : RspFrame :=
  { tid := wordAt raw 0, length := wordAt raw 4, unit := byteAt raw 6, body := raw.drop 8 }

/-- The normal-response row of a function code. -/
def rspRow (r : RspFrame) : FunctionCode → Instr
  | .readCoils => .readCoilsRsp r
  | .readDiscreteInputs => .readDiscreteInputsRsp r
  | .readHoldingRegisters => .readHoldingRegistersRsp r
  | .readInputRegisters => .readInputRegistersRsp r
  | .writeSingleCoil => .writeSingleCoilRsp r
  | .writeSingleRegister => .writeSingleRegisterRsp r
  | .writeMultipleCoils => .writeMultipleCoilsRsp r
  | .writeMultipleRegisters => .writeMultipleRegistersRsp r

/-- The exception-response row of a function code. -/
def excRow (r : RspFrame) : FunctionCode → Instr
  | .readCoils => .readCoilsExc r
  | .readDiscreteInputs => .readDiscreteInputsExc r
  | .readHoldingRegisters => .readHoldingRegistersExc r
  | .readInputRegisters => .readInputRegistersExc r
  | .writeSingleCoil => .writeSingleCoilExc r
  | .writeSingleRegister => .writeSingleRegisterExc r
  | .writeMultipleCoils => .writeMultipleCoilsExc r
  | .writeMultipleRegisters => .writeMultipleRegistersExc r

/-- A received frame as a row of the table, `e` being `PEND_FC`: exception first, then normal response
(R107, R110). A frame that is no row still has its effect: RX_FRAME completes with ProtocolError (R160). -/
def decodeResponse (e : Byte) (raw : List Byte) : Except DecodeError Instr :=
  if raw.length < 8 then .error .tooShort
  else if wordAt raw 2 ≠ config.protocolId then .error .protocolId
  else
    match FunctionCode.ofByte? e with
    | none => .error .functionCode
    | some fc =>
      if byteAt raw 7 = (e ||| 0x80) then .ok (excRow (rspFields raw) fc)
      else if byteAt raw 7 = e then
        if (rspRow (rspFields raw) fc).wellFormed then .ok (rspRow (rspFields raw) fc) else .error .length
      else .error .functionCode

/-- The decoder, total on any bits: by direction, then by bits (R107). -/
def decode (e : Byte) : Encoded → Except DecodeError Instr
  | .request frame => (decodeRequest frame).map Prod.fst
  | .response raw => decodeResponse e raw
  | .conv p => decodeConv p

/-- `HDR(t, u, L, f, a)`, the first ten bytes of every request (40_request_encode.md R130), with the
`PROTOCOL_ID` of `k`. -/
def header (k : Config) (t : Word) (u : Byte) (len : Nat) (f : Byte) (a : Word) : List Byte :=
  [hi t, lo t, hi k.protocolId, lo k.protocolId, hi (BitVec.ofNat 16 len), lo (BitVec.ofNat 16 len), u, f,
    hi a, lo a]

/-- REQ_FIXED, 12 bytes, `length` 6 (R93). -/
def reqFixed (k : Config) (t : Word) (u f : Byte) (a v : Word) : List Byte :=
  header k t u 6 f a ++ [hi v, lo v]

/-- REQ_MCOILS, `length` 7 + `bc` (R94). -/
def reqMCoils (k : Config) (t : Word) (u : Byte) (a qty : Word) (bits : List Bool) : List Byte :=
  header k t u (7 + bitsByteCount qty) 0x0F a ++
    [hi qty, lo qty, BitVec.ofNat 8 (bitsByteCount qty)] ++ packBits qty bits

/-- REQ_MREGS, `length` 7 + `2*qty` (R95; 90_conflicts.md C1). -/
def reqMRegs (k : Config) (t : Word) (u : Byte) (a qty : Word) (words : List Word) : List Byte :=
  header k t u (7 + regsByteCount qty) 0x10 a ++
    [hi qty, lo qty, BitVec.ofNat 8 (regsByteCount qty)] ++ packWords words

/-- A response frame: the header of R91, the function code, the body (R96, R99 to R101). -/
def rspFrame (f : Byte) (r : RspFrame) : List Byte :=
  [hi r.tid, lo r.tid, hi config.protocolId, lo config.protocolId, hi r.length, lo r.length, r.unit, f] ++ r.body

/-- The encoder. A request's frame takes the identifier `t` and the unit `u`, which are no operands of the
command (R130). -/
def encode (t : Word) (u : Byte) : Instr → Encoded
  | .readCoils addr qty => .request (reqFixed config t u 0x01 addr qty)
  | .readDiscreteInputs addr qty => .request (reqFixed config t u 0x02 addr qty)
  | .readHoldingRegisters addr qty => .request (reqFixed config t u 0x03 addr qty)
  | .readInputRegisters addr qty => .request (reqFixed config t u 0x04 addr qty)
  | .writeSingleCoil addr coil => .request (reqFixed config t u 0x05 addr (coilValue coil))
  | .writeSingleRegister addr value => .request (reqFixed config t u 0x06 addr value)
  | .writeMultipleCoils addr qty bits => .request (reqMCoils config t u addr qty bits)
  | .writeMultipleRegisters addr qty words => .request (reqMRegs config t u addr qty words)
  | .readCoilsRsp r => .response (rspFrame 0x01 r)
  | .readDiscreteInputsRsp r => .response (rspFrame 0x02 r)
  | .readHoldingRegistersRsp r => .response (rspFrame 0x03 r)
  | .readInputRegistersRsp r => .response (rspFrame 0x04 r)
  | .writeSingleCoilRsp r => .response (rspFrame 0x05 r)
  | .writeSingleRegisterRsp r => .response (rspFrame 0x06 r)
  | .writeMultipleCoilsRsp r => .response (rspFrame 0x0F r)
  | .writeMultipleRegistersRsp r => .response (rspFrame 0x10 r)
  | .readCoilsExc r => .response (rspFrame 0x81 r)
  | .readDiscreteInputsExc r => .response (rspFrame 0x82 r)
  | .readHoldingRegistersExc r => .response (rspFrame 0x83 r)
  | .readInputRegistersExc r => .response (rspFrame 0x84 r)
  | .writeSingleCoilExc r => .response (rspFrame 0x85 r)
  | .writeSingleRegisterExc r => .response (rspFrame 0x86 r)
  | .writeMultipleCoilsExc r => .response (rspFrame 0x8F r)
  | .writeMultipleRegistersExc r => .response (rspFrame 0x90 r)
  | .r2fLH words => .conv { op := 0b00, words := words, word := 0 }
  | .r2fHL words => .conv { op := 0b01, words := words, word := 0 }
  | .s16 word => .conv { op := 0b10, words := [], word := word }

/-- The command record of a request, the unused fields 0 (R22, R113). -/
def encodeCommand : Instr → Option Command
  | .readCoils addr qty => some ⟨0x01, addr, qty, false, 0, [], []⟩
  | .readDiscreteInputs addr qty => some ⟨0x02, addr, qty, false, 0, [], []⟩
  | .readHoldingRegisters addr qty => some ⟨0x03, addr, qty, false, 0, [], []⟩
  | .readInputRegisters addr qty => some ⟨0x04, addr, qty, false, 0, [], []⟩
  | .writeSingleCoil addr coil => some ⟨0x05, addr, 0, coil, 0, [], []⟩
  | .writeSingleRegister addr value => some ⟨0x06, addr, 0, false, value, [], []⟩
  | .writeMultipleCoils addr qty bits => some ⟨0x0F, addr, qty, false, 0, bits, []⟩
  | .writeMultipleRegisters addr qty words => some ⟨0x10, addr, qty, false, 0, [], words⟩
  | .readCoilsRsp _ | .readDiscreteInputsRsp _ | .readHoldingRegistersRsp _ | .readInputRegistersRsp _ => none
  | .writeSingleCoilRsp _ | .writeSingleRegisterRsp _ => none
  | .writeMultipleCoilsRsp _ | .writeMultipleRegistersRsp _ => none
  | .readCoilsExc _ | .readDiscreteInputsExc _ | .readHoldingRegistersExc _ | .readInputRegistersExc _ => none
  | .writeSingleCoilExc _ | .writeSingleRegisterExc _ => none
  | .writeMultipleCoilsExc _ | .writeMultipleRegistersExc _ => none
  | .r2fLH _ | .r2fHL _ | .s16 _ => none

/-- The function code a row belongs to; the conversions have none (R107). -/
def functionCodeOf : Instr → Option FunctionCode
  | .readCoils _ _ | .readCoilsRsp _ | .readCoilsExc _ => some .readCoils
  | .readDiscreteInputs _ _ | .readDiscreteInputsRsp _ | .readDiscreteInputsExc _ => some .readDiscreteInputs
  | .readHoldingRegisters _ _ | .readHoldingRegistersRsp _ | .readHoldingRegistersExc _ =>
    some .readHoldingRegisters
  | .readInputRegisters _ _ | .readInputRegistersRsp _ | .readInputRegistersExc _ => some .readInputRegisters
  | .writeSingleCoil _ _ | .writeSingleCoilRsp _ | .writeSingleCoilExc _ => some .writeSingleCoil
  | .writeSingleRegister _ _ | .writeSingleRegisterRsp _ | .writeSingleRegisterExc _ =>
    some .writeSingleRegister
  | .writeMultipleCoils _ _ _ | .writeMultipleCoilsRsp _ | .writeMultipleCoilsExc _ =>
    some .writeMultipleCoils
  | .writeMultipleRegisters _ _ _ | .writeMultipleRegistersRsp _ | .writeMultipleRegistersExc _ =>
    some .writeMultipleRegisters
  | .r2fLH _ | .r2fHL _ | .s16 _ => none

/-- `PEND_FC` for which a response row applies (R107); 0 for a conversion. -/
def pendFcOf (i : Instr) : Byte :=
  match functionCodeOf i with
  | some fc => fc.toByte
  | none => 0

/-- `match` and `mask` of a row of spec/opcode_table.json over the first eight bytes (R107). -/
structure TableRow where
  value : BitVec 64
  mask : BitVec 64
  deriving DecidableEq, Repr

/-- The mask of the formats with one size, REQ_FIXED and RSP_ECHO (R107). -/
def fixedMask : BitVec 64 := 0x0000FFFFFFFF00FF

/-- The mask of the formats whose `length` varies (R107). -/
def variableMask : BitVec 64 := 0x0000FFFF000000FF

/-- The row of spec/opcode_table.json that a frame instruction stands for. -/
def tableRow : Instr → Option TableRow
  | .readCoils _ _ => some ⟨0x0000000000060001, fixedMask⟩
  | .readDiscreteInputs _ _ => some ⟨0x0000000000060002, fixedMask⟩
  | .readHoldingRegisters _ _ => some ⟨0x0000000000060003, fixedMask⟩
  | .readInputRegisters _ _ => some ⟨0x0000000000060004, fixedMask⟩
  | .writeSingleCoil _ _ => some ⟨0x0000000000060005, fixedMask⟩
  | .writeSingleRegister _ _ => some ⟨0x0000000000060006, fixedMask⟩
  | .writeMultipleCoils _ _ _ => some ⟨0x000000000000000F, variableMask⟩
  | .writeMultipleRegisters _ _ _ => some ⟨0x0000000000000010, variableMask⟩
  | .readCoilsRsp _ => some ⟨0x0000000000000001, variableMask⟩
  | .readDiscreteInputsRsp _ => some ⟨0x0000000000000002, variableMask⟩
  | .readHoldingRegistersRsp _ => some ⟨0x0000000000000003, variableMask⟩
  | .readInputRegistersRsp _ => some ⟨0x0000000000000004, variableMask⟩
  | .writeSingleCoilRsp _ => some ⟨0x0000000000060005, fixedMask⟩
  | .writeSingleRegisterRsp _ => some ⟨0x0000000000060006, fixedMask⟩
  | .writeMultipleCoilsRsp _ => some ⟨0x000000000006000F, fixedMask⟩
  | .writeMultipleRegistersRsp _ => some ⟨0x0000000000060010, fixedMask⟩
  | .readCoilsExc _ => some ⟨0x0000000000000081, variableMask⟩
  | .readDiscreteInputsExc _ => some ⟨0x0000000000000082, variableMask⟩
  | .readHoldingRegistersExc _ => some ⟨0x0000000000000083, variableMask⟩
  | .readInputRegistersExc _ => some ⟨0x0000000000000084, variableMask⟩
  | .writeSingleCoilExc _ => some ⟨0x0000000000000085, variableMask⟩
  | .writeSingleRegisterExc _ => some ⟨0x0000000000000086, variableMask⟩
  | .writeMultipleCoilsExc _ => some ⟨0x000000000000008F, variableMask⟩
  | .writeMultipleRegistersExc _ => some ⟨0x0000000000000090, variableMask⟩
  | .r2fLH _ | .r2fHL _ | .s16 _ => none

/-- `(first8 AND mask) = match` (R107). -/
def TableRow.matchesFrame (row : TableRow) (raw : List Byte) : Bool :=
  decide (first8 raw &&& row.mask = row.value)

/-- The bytes of a table word: bits 63:56 are byte 0 and bits 7:0 byte 7 (R107); bytes from the ninth on
count on from bit 64; what lies above `nbits` is 0. -/
def tableBytes (nbits w n : Nat) : List Byte :=
  (List.range n).map fun k =>
    BitVec.ofNat 8 ((w % 2 ^ nbits) >>> (if k < 8 then 8 * (7 - k) else 8 * k))

/-- Which direction a table word is read in, since a request and its echo may share their bits (R107; log
entry 8): a reading request has `length` 6, a multiple write never has. -/
def tableWordIsRequest (raw : List Byte) : Bool :=
  match FunctionCode.ofByte? (byteAt raw 7) with
  | none => false
  | some .readCoils | some .readDiscreteInputs => decide (wordAt raw 4 = 6)
  | some .readHoldingRegisters | some .readInputRegisters => decide (wordAt raw 4 = 6)
  | some .writeSingleCoil | some .writeSingleRegister => true
  | some .writeMultipleCoils | some .writeMultipleRegisters => decide (wordAt raw 4 ≠ 6)

/-- The size of a response frame that begins with these bytes (R108). -/
def responseSize (raw : List Byte) : Nat :=
  if (byteAt raw 7).getLsbD 7 then 9
  else
    match FunctionCode.ofByte? (byteAt raw 7) with
    | none => 9
    | some .readCoils | some .readDiscreteInputs => 9 + (byteAt raw 8).toNat
    | some .readHoldingRegisters | some .readInputRegisters => 9 + (byteAt raw 8).toNat
    | some .writeSingleCoil | some .writeSingleRegister => 12
    | some .writeMultipleCoils | some .writeMultipleRegisters => 12

/-- A table word laid out at its port: a row of at most a byte is a `conv_op`, its operands zero, a longer
one a frame of the size its format has (R107, R108, R114). -/
def tableEncoded (nbits w : Nat) : Encoded :=
  if nbits ≤ 8 then
    .conv { op := BitVec.ofNat 2 (min (w % 2 ^ nbits) 3), words := [0, 0], word := 0 }
  else if tableWordIsRequest (tableBytes nbits w 8) then
    .request (tableBytes nbits w (requestSize (tableBytes nbits w 13)))
  else .response (tableBytes nbits w (responseSize (tableBytes nbits w 9)))

/-- The `PEND_FC` under which a table word's response row applies: its function code without bit 7. -/
def tablePendFc (nbits w : Nat) : Byte := byteAt (tableBytes nbits w 8) 7 &&& 0x7F

/-- The row of the table that encoded bits match, as `decode` finds it but for the last check of a request: a
word of the table leaves `length` open where the row's mask does (R107; log entry 17). -/
def decodeRow (e : Byte) : Encoded → Except DecodeError Instr
  | .request frame => (decodeRequestRow frame).map Prod.fst
  | .response raw => decodeResponse e raw
  | .conv p => decodeConv p

/-- The instruction this decoder reads from a word of spec/opcode_table.json. -/
def decodeTableWord (nbits w : Nat) : Option Instr :=
  (decodeRow (tablePendFc nbits w) (tableEncoded nbits w)).toOption

end Sys2Proof
end

