-- ==== Sys2Proof/Machine/State.lean ====
section
/-! DEFINITION. The state of the block as plain data (10_state.md R20 to R37; 20_memory.md R60 to R64), the
error taxonomy (60_exceptions.md R271 to R275), the reasons a step can stop, and the state after reset (R35). -/

namespace Sys2Proof.Machine

/-- `PHASE`, 2 bits: where the current command stands (R25). -/
inductive Phase where
  /-- 0: no command outstanding. -/
  | idle
  /-- 1: the request frame is presented; waiting for `TX_DONE`. -/
  | send
  /-- 2: sent; waiting for the outcome of `Receive`. -/
  | await
  /-- 3: reserved; never written by any rule. -/
  | reserved
  deriving DecidableEq, Repr

/-- `RES_STATUS`, 3 bits: the kind of the last completion (R29, R271). -/
inductive Status where
  | ok | encodingError | transportError | timeoutError | protocolError
  /-- 5: never written by the block. -/
  | unreachableError
  /-- 6: never written by the block. -/
  | connectError
  /-- 7: reserved, never written. -/
  | reserved
  deriving DecidableEq, Repr

/-- `RES_KIND`, 2 bits: what the result buffers hold (R33). -/
inductive ResKind where
  | none | bits | words | flag
  deriving DecidableEq, Repr

/-- The details of EncodingError (R272). -/
inductive EncDetail where
  | quantityZero | quantityTooLarge | payloadLength
  /-- On the conversion port only. -/
  | notTwoWords
  | unsupportedFunction
  deriving DecidableEq, Repr

/-- The details of TransportError (R274). -/
inductive TransDetail where
  | sendFailed | receiveFailed | closed
  deriving DecidableEq, Repr

/-- The details of ProtocolError (R273); `exception` carries the exception code byte. -/
inductive ProtoDetail where
  | tooShort | tidMismatch | protocolId | lengthMismatch | unitMismatch | functionMismatch
  | exception (code : Byte)
  | bodyMalformed | echoMismatch
  deriving DecidableEq, Repr

/-- An error a completion can report, kind and detail (R270, R271). TimeoutError has no detail (R275). -/
inductive Error where
  | encoding (d : EncDetail)
  | transport (d : TransDetail)
  | timeout
  | protocol (d : ProtoDetail)
  deriving DecidableEq, Repr

/-- The conversion port's output after its last operation; a field of the MODEL, no register of the block
(R254; log entry 10). -/
inductive ConvOut where
  /-- No operation yet. -/
  | idle
  /-- The 32-bit pattern of R201, R202 or R204. -/
  | value (v : BitVec 32)
  /-- `Err(EncodingError, detail)`, on the port only (R200). -/
  | error (d : EncDetail)
  deriving DecidableEq, Repr

/-- A byte buffer: the bytes that hold a value, addresses strictly rising. An address that is not listed
holds no value (R35, R37; log entry 3). -/
abbrev Memory := List Host.Cell

/-- The canonical form: addresses strictly rising. An unlisted address reads as no value, which no entry
can equal, so there is no second condition. -/
abbrev Memory.wf (m : Memory) : Prop := m.Pairwise fun x y => x.1 < y.1

/-- Why the block stops. No run over inputs that address only what exists raises one. -/
inductive Fault where
  /-- An access to an address that does not exist: past the end of TXB, RXB (R61, R62) or of RES_BITS,
  RES_WORDS (R60). Raised by `Memory.store`, `Memory.load` and a host read of a result element. Safe: the
  spec gives no such address (log entry 14). -/
  | outsideBuffer
  /-- A read of a buffer byte that holds no value (R37). Raised by `Memory.load`, which no step calls,
  only the transport's views `presented` and `transportView`. Safe: nothing is picked (log entry 3). -/
  | noValue
  deriving DecidableEq, Repr

/-- Why an input is turned away with no meaning. -/
inductive Refusal where
  /-- An instruction with no meaning yet; raised by an arm of `exec` only. Safe. -/
  | notModelled (mnemonic : String)
  /-- `conv_op` = 11: reserved, no operation, the output has no value (R114, R254, U10). Raised by the
  conversion port. Safe (log entry 11). -/
  | reservedConvOp
  deriving DecidableEq, Repr

/-- The whole state (R20), and last three fields of the model's own. -/
structure State where
  /-- `TID`: the identifier the next command will use (R26). -/
  tid : BitVec 16
  /-- `PHASE` (R25). -/
  phase : Phase
  /-- `CFG_UNIT` (R27). -/
  cfgUnit : BitVec 8
  /-- `PEND_TID` (R23). -/
  pendTid : BitVec 16
  /-- `PEND_UNIT` (R23). -/
  pendUnit : BitVec 8
  /-- `PEND_FC` (R23). -/
  pendFc : BitVec 8
  /-- `PEND_ADDR` (R23). -/
  pendAddr : BitVec 16
  /-- `PEND_QV` (R23). -/
  pendQv : BitVec 16
  /-- `TX_LEN` (R28). -/
  txLen : BitVec 9
  /-- `RX_EXPECT` (R28). -/
  rxExpect : BitVec 9
  /-- `RX_LEN` (R28). -/
  rxLen : BitVec 9
  /-- `RES_VALID` (R32). -/
  resValid : Bool
  /-- `RES_STATUS` (R29). -/
  resStatus : Status
  /-- `RES_DETAIL` (R30). -/
  resDetail : BitVec 4
  /-- `RES_EXC` (R31). -/
  resExc : BitVec 8
  /-- `RES_OK` (R32). -/
  resOk : Bool
  /-- `RES_KIND` (R33). -/
  resKind : ResKind
  /-- `RES_COUNT` (R33). -/
  resCount : BitVec 11
  /-- The elements of `RES_BITS` that hold a value, from index 0 (R33, R37; log entry 4). -/
  resBits : List Bool
  /-- The elements of `RES_WORDS` that hold a value, from index 0 (R33, R37; log entry 4). -/
  resWords : List Word
  /-- `TXB` (20_memory.md R61). -/
  txb : Memory
  /-- `RXB` (R62). -/
  rxb : Memory
  /-- The model's own: the events that HOST and TRANSPORT hold at the ports, in the environment's order
  (R230, R231, R284; log entry 5). -/
  inputs : List Input
  /-- The model's own: the conversion port's output (R114; log entry 10). -/
  convOut : ConvOut
  /-- The model's own: what the last host read showed, widened to 16 bits; `none` where the state read
  holds no value (R37, R239; log entry 2). -/
  readOut : Option (BitVec 16)
  deriving DecidableEq, Repr

/-- What the transport may read (R34); `none` where the state read holds no value (R37) or is not the
transport's to read. -/
structure TransportView where
  /-- `TX_LEN`. -/
  txLen : Option (BitVec 9)
  /-- `RX_EXPECT`, the most bytes the transport may deliver (R28). -/
  rxExpect : Option (BitVec 9)
  /-- The frame in `TXB`. -/
  frame : Option (List Byte)
  deriving DecidableEq, Repr

/-- A step's outcome. -/
abbrev Result := Host.Outcome State Fault Refusal

/-- The state right after `Reset` (R35, 70_reset_and_hazards.md R310). The registers R35 calls unspecified
hold a value that no host read shows (R37; DESIGN CHOICE, log entries 1 and 2); the buffers hold no value. -/
def State.reset : State where
  tid := config.tidReset
  phase := .idle
  cfgUnit := config.unitIdReset
  pendTid := 0
  pendUnit := 0
  pendFc := 0
  pendAddr := 0
  pendQv := 0
  txLen := 0
  rxExpect := 0
  rxLen := 0
  resValid := false
  resStatus := .ok
  resDetail := 0
  resExc := 0
  resOk := false
  resKind := .none
  resCount := 0
  resBits := []
  resWords := []
  txb := []
  rxb := []
  inputs := []
  convOut := .idle
  readOut := none

end Sys2Proof.Machine
end

