-- ==== Sys2Proof/Machine/Flags.lean ====
section
/-! DEFINITION. The codes of the status registers and every flag computation (10_state.md R25, R29 to R33;
60_exceptions.md R271 to R275, R280). The block has no arithmetic flags (R32). -/

namespace Sys2Proof.Machine

/-- The numbers of `PHASE` (R25). -/
def phaseCode : Phase → BitVec 2
  | .idle => 0
  | .send => 1
  | .await => 2
  | .reserved => 3

/-- The numbers of `RES_STATUS` (R29, R271). -/
def statusCode : Status → BitVec 3
  | .ok => 0
  | .encodingError => 1
  | .transportError => 2
  | .timeoutError => 3
  | .protocolError => 4
  | .unreachableError => 5
  | .connectError => 6
  | .reserved => 7

/-- The numbers of `RES_KIND` (R33). -/
def kindCode : ResKind → BitVec 2
  | .none => 0
  | .bits => 1
  | .words => 2
  | .flag => 3

/-- The details of EncodingError (R272). -/
def encCode : EncDetail → BitVec 4
  | .quantityZero => 1
  | .quantityTooLarge => 2
  | .payloadLength => 3
  | .notTwoWords => 4
  | .unsupportedFunction => 5

/-- The details of TransportError (R274). -/
def transCode : TransDetail → BitVec 4
  | .sendFailed => 1
  | .receiveFailed => 2
  | .closed => 3

/-- The details of ProtocolError (R273). -/
def protoCode : ProtoDetail → BitVec 4
  | .tooShort => 1
  | .tidMismatch => 2
  | .protocolId => 3
  | .lengthMismatch => 4
  | .unitMismatch => 5
  | .functionMismatch => 6
  | .exception _ => 7
  | .bodyMalformed => 8
  | .echoMismatch => 9

/-- The kind an error reports in `RES_STATUS` (R271). -/
def errorStatus : Error → Status
  | .encoding _ => .encodingError
  | .transport _ => .transportError
  | .timeout => .timeoutError
  | .protocol _ => .protocolError

/-- The detail an error reports in `RES_DETAIL`; 0 for TimeoutError (R272 to R275). -/
def errorDetail : Error → BitVec 4
  | .encoding d => encCode d
  | .transport d => transCode d
  | .timeout => 0
  | .protocol d => protoCode d

/-- `RES_EXC`: the exception code if the detail is Exception, else 0 (R31, R280). -/
def errorExc : Error → Byte
  | .protocol (.exception code) => code
  | .protocol .tooShort | .protocol .tidMismatch | .protocol .protocolId => 0
  | .protocol .lengthMismatch | .protocol .unitMismatch | .protocol .functionMismatch => 0
  | .protocol .bodyMalformed | .protocol .echoMismatch => 0
  | .encoding _ | .transport _ | .timeout => 0

/-- `RES_OK`: 1 if `RES_STATUS` is OK and 0 otherwise (R32). -/
def okFlag : Status → Bool
  | .ok => true
  | .encodingError | .transportError | .timeoutError | .protocolError => false
  | .unreachableError | .connectError | .reserved => false

/-- `RES_KIND` from the command's op: BITS for 1 and 2, WORDS for 3 and 4, FLAG for 5, 6, 15, 16, NONE for a
reserved op (R33, R280). -/
def kindOfOp (op : Byte) : ResKind :=
  match FunctionCode.ofByte? op with
  | none => .none
  | some .readCoils | some .readDiscreteInputs => .bits
  | some .readHoldingRegisters | some .readInputRegisters => .words
  | some .writeSingleCoil | some .writeSingleRegister => .flag
  | some .writeMultipleCoils | some .writeMultipleRegisters => .flag

end Sys2Proof.Machine
end

