-- ==== Sys2Proof/Machine/Ops.lean ====
section
/-! DEFINITION. The named operations over the buffers and the registers: byte access, the tracker's Next,
completion with success and with failure, the CMD step and the RX_FRAME step (20_memory.md, 43_transaction_tracker.md,
44_dispatcher.md, 60_exceptions.md). -/

namespace Sys2Proof.Machine

/-- One byte of a buffer; `none` where it holds no value (R37). -/
def Memory.read : Memory → Nat → Option Byte
  | [], _ => none
  | (k, x) :: rest, a => if k = a then some x else Memory.read rest a

/-- Writes one byte and keeps the canonical form. -/
def Memory.write : Memory → Nat → Byte → Memory
  | [], a, b => [(a, b)]
  | (k, x) :: rest, a, b =>
    if a < k then (a, b) :: (k, x) :: rest
    else if a = k then (a, b) :: rest
    else (k, x) :: Memory.write rest a b

/-- Writes a sequence from address `a` upward, first byte first. -/
def Memory.writeAll : Memory → Nat → List Byte → Memory
  | m, _, [] => m
  | m, a, b :: rest => Memory.writeAll (Memory.write m a b) (a + 1) rest

/-- `MemWrite(S, a, n, v)` on a buffer of `size` bytes (00_scope.md R10); an address past its end does not
exist (R61, R62). -/
def Memory.store (size : Nat) (m : Memory) (a : Nat) (bytes : List Byte) : Except Fault Memory :=
  if a + bytes.length ≤ size then .ok (m.writeAll a bytes) else .error .outsideBuffer

/-- `MemRead(S, a, n)` on a buffer of `size` bytes (R10). -/
def Memory.load (size : Nat) (m : Memory) (a : Nat) : Nat → Except Fault (List Byte)
  | 0 => .ok []
  | n + 1 =>
    if a < size then
      match Memory.read m a with
      | none => .error .noValue
      | some b => (Memory.load size m (a + 1) n).map (b :: ·)
    else .error .outsideBuffer

/-- `PEND_*`, `TX_LEN` and `RX_EXPECT` hold a value in SEND and AWAIT (R23, R37). -/
def inFlight (s : State) : Bool := decide (s.phase = .send ∨ s.phase = .await)

/-- What is presented to the transport while `PHASE` = SEND: `TXB[0 .. TX_LEN-1]` and `RX_EXPECT` (R231). -/
def presented (s : State) : Option (List Byte × BitVec 9) :=
  if s.phase = .send then
    (Memory.load config.txbSize s.txb 0 s.txLen.toNat).toOption.map fun frame => (frame, s.rxExpect)
  else none

/-- The transport's reads (R34): `TX_LEN` and `RX_EXPECT` whenever they hold a value, so also in AWAIT, where
`RX_EXPECT` bounds what it may deliver (R28, R231); `TXB` only while `PHASE` = SEND. -/
def transportView (s : State) : TransportView where
  txLen := if inFlight s then some s.txLen else none
  rxExpect := if inFlight s then some s.rxExpect else none
  frame := (presented s).map Prod.fst

/-- `Next` (43_transaction_tracker.md R220) with the clearing of `RES_VALID` that the CMD step does beside it
(R232): the identifier drawn is the old `TID`. -/
def spendTid (s : State) : State :=
  { s with tid := s.tid + 1, resValid := false }

/-- The writes every completion makes (R248, R280). `RES_BITS` and `RES_WORDS` are left with exactly the
elements of this result: what an earlier one left there is without value (R37, R64). -/
def complete (st : Status) (detail : BitVec 4) (exc : Byte) (kind : ResKind) (count : Nat)
    (bits : List Bool) (words : List Word) (s : State) : State :=
  { s with
    resStatus := st, resDetail := detail, resExc := exc, resOk := okFlag st, resKind := kind,
    resCount := BitVec.ofNat 11 count, resBits := bits, resWords := words, resValid := true,
    phase := .idle }

/-- `raise <Error>(detail)`, the block's trap entry: completion with failure of the command with this `op`
(60_exceptions.md R280). `TID` is not rolled back; nothing is saved for a handler, and there is no
return-from-trap operation: the block is idle again (R285). -/
def raise (op : Byte) (e : Error) (s : State) : State :=
  complete (errorStatus e) (errorDetail e) (errorExc e) (kindOfOp op) 0 [] [] s

/-- The data results of `DEC` (41_response_decode.md R160). -/
inductive DecResult where
  | bits (l : List Bool)
  | words (l : List Word)
  | done
  deriving DecidableEq, Repr

/-- "complete OK" with the result of `DEC` (44_dispatcher.md R234, R248). -/
def completeOk : DecResult → State → State
  | .bits l, s => complete .ok 0 0 .bits l.length l [] s
  | .words l, s => complete .ok 0 0 .words l.length [] l s
  | .done, s => complete .ok 0 0 .flag 0 [] [] s

/-- What the CMD step latches of an accepted command: the frame, what its response is checked against, the
size of the receive buffer (R232, R23, R28). -/
def latchRequest (op : Byte) (addr : Word) (expect : Nat) (frame : List Byte) (txb : Memory)
    (t : Word) (s : State) : State :=
  { s with
    txb := txb, txLen := BitVec.ofNat 9 frame.length,
    pendTid := t, pendUnit := s.cfgUnit, pendFc := op, pendAddr := addr, pendQv := wordAt frame 10,
    rxExpect := BitVec.ofNat 9 expect, phase := .send }

/-- The step `CMD(c)` (R232): `r` is what `ENC` answers for the identifier in `TID` and the unit in `CFG_UNIT`.
While `PHASE` is not IDLE the step is not enabled and nothing changes (R249). -/
def command (op : Byte) (addr : Word) (expect : Nat) (r : Except EncDetail (List Byte)) (s : State) :
    Result :=
  if s.phase = .idle then
    match r with
    | .error d => .next (raise op (.encoding d) (spendTid s))
    | .ok frame =>
      match Memory.store config.txbSize s.txb 0 frame with
      | .error f => .fault f
      | .ok txb => .next (latchRequest op addr expect frame txb s.tid (spendTid s))
  else .next s

/-- The record `p` that `DEC` is given (41_response_decode.md R160). -/
structure Pending where
  tid : Word
  unit : Byte
  fc : Byte
  addr : Word
  qv : Word
  deriving DecidableEq, Repr

/-- `p = { tid: PEND_TID, unit: PEND_UNIT, fc: PEND_FC, addr: PEND_ADDR, qv: PEND_QV }` (R234). -/
def pendingOf (s : State) : Pending :=
  { tid := s.pendTid, unit := s.pendUnit, fc := s.pendFc, addr := s.pendAddr, qv := s.pendQv }

/-- `MemWrite(RXB, 0, min(|raw|, 259), raw) ; RX_LEN <- min(|raw|, 259)` (R234): the buffer and the length. -/
def latchResponse (raw : List Byte) (rxb : Memory) (s : State) : State :=
  { s with rxb := rxb, rxLen := BitVec.ofNat 9 (min raw.length config.rxbSize) }

/-- The completion that the result of `DEC` brings (R234). -/
def finish (r : Except ProtoDetail DecResult) (s : State) : State :=
  match r with
  | .ok d => completeOk d s
  | .error e => raise s.pendFc (.protocol e) s

/-- The step `RX_FRAME(raw)` (R234), `r` being what `DEC` answers. Outside AWAIT it has no step and leaves
every register unchanged (60_exceptions.md R279). -/
def receive (raw : List Byte) (r : Except ProtoDetail DecResult) (s : State) : Result :=
  if s.phase = .await then
    match Memory.store config.rxbSize s.rxb 0 (raw.take config.rxbSize) with
    | .error f => .fault f
    | .ok rxb => .next (finish r (latchResponse raw rxb s))
  else .next s

end Sys2Proof.Machine
end

