-- ==== Sys2Proof/Machine/Convert.lean ====
section
/-! DEFINITION. The conversion port (42_register_conversion.md R200 to R207; 44_dispatcher.md R254): pure, in any
phase, no register written. -/

namespace Sys2Proof.Machine

/-- `RegistersToFloat`, common part (R200): exactly two words, else NotTwoWords. -/
def registersToFloat (compose : Word → Word → BitVec 32) : List Word → ConvOut
  | [w0, w1] => .value (compose w0 w1)
  | [] | [_] | _ :: _ :: _ :: _ => .error .notTwoWords

/-- The port shows its output; no register changes (R254; log entry 10). -/
def convShow (out : ConvOut) (s : State) : State := { s with convOut := out }

/-- R2F.LH (R201). -/
def execR2fLH (words : List Word) (s : State) : Result :=
  .next (convShow (registersToFloat composeLowHigh words) s)

/-- R2F.HL (R202). -/
def execR2fHL (words : List Word) (s : State) : Result :=
  .next (convShow (registersToFloat composeHighLow words) s)

/-- S16 (R204). -/
def execS16 (word : Word) (s : State) : Result :=
  .next (convShow (.value (signedReading word)) s)

end Sys2Proof.Machine
end

