-- ==== Sys2Proof/Machine/Request.lean ====
section
/-! DEFINITION. `ENC`, one rule per function code (40_request_encode.md R130 to R143), and the eight request
instructions: the CMD step of each operation (44_dispatcher.md R232, R240 to R247, R250). -/

namespace Sys2Proof.Machine

/-- The two quantity checks, in order (R131). -/
def checkQuantity (max : Nat) (qty : Word) (r : Except EncDetail (List Byte)) :
    Except EncDetail (List Byte) :=
  if qty = 0 then .error .quantityZero
  else if max < qty.toNat then .error .quantityTooLarge
  else r

/-- R132. -/
def encReadCoils (k : Config) (t : Word) (u : Byte) (addr qty : Word) : Except EncDetail (List Byte) :=
  checkQuantity k.maxRdBits qty (.ok (reqFixed k t u 0x01 addr qty))

/-- R133. -/
def encReadDiscreteInputs (k : Config) (t : Word) (u : Byte) (addr qty : Word) :
    Except EncDetail (List Byte) :=
  checkQuantity k.maxRdBits qty (.ok (reqFixed k t u 0x02 addr qty))

/-- R134. -/
def encReadHoldingRegisters (k : Config) (t : Word) (u : Byte) (addr qty : Word) :
    Except EncDetail (List Byte) :=
  checkQuantity k.maxRdRegs qty (.ok (reqFixed k t u 0x03 addr qty))

/-- R135. -/
def encReadInputRegisters (k : Config) (t : Word) (u : Byte) (addr qty : Word) :
    Except EncDetail (List Byte) :=
  checkQuantity k.maxRdRegs qty (.ok (reqFixed k t u 0x04 addr qty))

/-- R136: cannot fail; OFF is 0x0000 and no zero quantity (90_conflicts.md C4). -/
def encWriteSingleCoil (k : Config) (t : Word) (u : Byte) (addr : Word) (coil : Bool) :
    Except EncDetail (List Byte) :=
  .ok (reqFixed k t u 0x05 addr (coilValue coil))

/-- R137: cannot fail; the value is not interpreted. -/
def encWriteSingleRegister (k : Config) (t : Word) (u : Byte) (addr value : Word) :
    Except EncDetail (List Byte) :=
  .ok (reqFixed k t u 0x06 addr value)

/-- R138. -/
def encWriteMultipleCoils (k : Config) (t : Word) (u : Byte) (addr qty : Word) (bits : List Bool) :
    Except EncDetail (List Byte) :=
  checkQuantity k.maxWrBits qty
    (if bits.length ≠ qty.toNat then .error .payloadLength else .ok (reqMCoils k t u addr qty bits))

/-- R139. -/
def encWriteMultipleRegisters (k : Config) (t : Word) (u : Byte) (addr qty : Word) (words : List Word) :
    Except EncDetail (List Byte) :=
  checkQuantity k.maxWrRegs qty
    (if words.length ≠ qty.toNat then .error .payloadLength else .ok (reqMRegs k t u addr qty words))

/-- `ENC(t, u, c)` on a command record: a reserved `op` is refused before any other field is looked at
(R130, R131, R143). -/
def enc (k : Config) (t : Word) (u : Byte) (c : Command) : Except EncDetail (List Byte) :=
  match FunctionCode.ofByte? c.op with
  | none => .error .unsupportedFunction
  | some .readCoils => encReadCoils k t u c.addr c.qty
  | some .readDiscreteInputs => encReadDiscreteInputs k t u c.addr c.qty
  | some .readHoldingRegisters => encReadHoldingRegisters k t u c.addr c.qty
  | some .readInputRegisters => encReadInputRegisters k t u c.addr c.qty
  | some .writeSingleCoil => encWriteSingleCoil k t u c.addr c.coil
  | some .writeSingleRegister => encWriteSingleRegister k t u c.addr c.value
  | some .writeMultipleCoils => encWriteMultipleCoils k t u c.addr c.qty c.bits
  | some .writeMultipleRegisters => encWriteMultipleRegisters k t u c.addr c.qty c.words

/-- `RX_EXPECT` of a bit read: `9 + (qty + 7) div 8` (R250). -/
def expectBits (qty : Word) : Nat := 9 + bitsByteCount qty

/-- `RX_EXPECT` of a register read: `9 + 2*qty` (R250). -/
def expectRegs (qty : Word) : Nat := 9 + regsByteCount qty

/-- `RX_EXPECT` of every write: the 12 bytes of its echo (R250). -/
def expectEcho : Nat := 12

/-- ReadCoils (R240). -/
def execReadCoils (addr qty : Word) (s : State) : Result :=
  command 0x01 addr (expectBits qty) (encReadCoils config s.tid s.cfgUnit addr qty) s

/-- ReadDiscreteInputs (R241). -/
def execReadDiscreteInputs (addr qty : Word) (s : State) : Result :=
  command 0x02 addr (expectBits qty) (encReadDiscreteInputs config s.tid s.cfgUnit addr qty) s

/-- ReadHoldingRegisters (R242). -/
def execReadHoldingRegisters (addr qty : Word) (s : State) : Result :=
  command 0x03 addr (expectRegs qty) (encReadHoldingRegisters config s.tid s.cfgUnit addr qty) s

/-- ReadInputRegisters (R243). -/
def execReadInputRegisters (addr qty : Word) (s : State) : Result :=
  command 0x04 addr (expectRegs qty) (encReadInputRegisters config s.tid s.cfgUnit addr qty) s

/-- WriteSingleCoil (R244). -/
def execWriteSingleCoil (addr : Word) (coil : Bool) (s : State) : Result :=
  command 0x05 addr expectEcho (encWriteSingleCoil config s.tid s.cfgUnit addr coil) s

/-- WriteSingleRegister (R245). -/
def execWriteSingleRegister (addr value : Word) (s : State) : Result :=
  command 0x06 addr expectEcho (encWriteSingleRegister config s.tid s.cfgUnit addr value) s

/-- WriteMultipleCoils (R246). -/
def execWriteMultipleCoils (addr qty : Word) (bits : List Bool) (s : State) : Result :=
  command 0x0F addr expectEcho (encWriteMultipleCoils config s.tid s.cfgUnit addr qty bits) s

/-- WriteMultipleRegisters (R247). -/
def execWriteMultipleRegisters (addr qty : Word) (words : List Word) (s : State) : Result :=
  command 0x10 addr expectEcho (encWriteMultipleRegisters config s.tid s.cfgUnit addr qty words) s

/-- A command whose `op` is reserved: it draws an identifier and completes with EncodingError
UnsupportedFunction; nothing is sent (R143, 30_encoding.md R109). -/
def execReservedOp (c : Command) (s : State) : Result :=
  command c.op c.addr expectEcho (.error .unsupportedFunction) s

end Sys2Proof.Machine
end

