-- ==== Sys2Proof/Machine/Response.lean ====
section
/-! DEFINITION. `DEC` (41_response_decode.md R160 to R181), and the sixteen response instructions: the RX_FRAME
step on a frame of each row (44_dispatcher.md R234). -/

namespace Sys2Proof.Machine

/-- Lines 1 to 5 of R160, in their order (R161 to R165, R282). -/
def headerError (p : Pending) (raw : List Byte) : Option ProtoDetail :=
  if raw.length < 8 then some .tooShort
  else if wordAt raw 0 ≠ p.tid then some .tidMismatch
  else if wordAt raw 2 ≠ config.protocolId then some .protocolId
  else if (wordAt raw 4).toNat ≠ raw.length - 6 then some .lengthMismatch
  else if byteAt raw 6 ≠ p.unit then some .unitMismatch
  else none

/-- An exception response: the one-byte code, or BodyMalformed when it is missing (R167). -/
def bodyExc (raw : List Byte) : ProtoDetail :=
  if 9 ≤ raw.length then .exception (byteAt raw 8) else .bodyMalformed

/-- The `byteCount` checks of a read response (R169 to R172): at least 9 bytes, `byteCount` = `want`, and
`|raw|` = 9 + `byteCount`. -/
def readBodyFits (want : Nat) (raw : List Byte) : Bool :=
  decide (9 ≤ raw.length) && decide ((byteAt raw 8).toNat = want) &&
    decide (raw.length = 9 + (byteAt raw 8).toNat)

/-- The body of RSP_BITS (R169, R170). -/
def bodyBits (p : Pending) (raw : List Byte) : Except ProtoDetail DecResult :=
  if readBodyFits (bitsByteCount p.qv) raw then .ok (.bits (unpackBits p.qv.toNat (raw.drop 9)))
  else .error .bodyMalformed

/-- The body of RSP_REGS (R171, R172). -/
def bodyRegs (p : Pending) (raw : List Byte) : Except ProtoDetail DecResult :=
  if readBodyFits (regsByteCount p.qv) raw then .ok (.words (unpackWords p.qv.toNat (raw.drop 9)))
  else .error .bodyMalformed

/-- The body of RSP_ECHO: offsets 8 to 11 against the request's (R173 to R177). -/
def bodyEcho (p : Pending) (raw : List Byte) : Except ProtoDetail DecResult :=
  if raw.length ≠ 12 then .error .bodyMalformed
  else if wordAt raw 8 ≠ p.addr ∨ wordAt raw 10 ≠ p.qv then .error .echoMismatch
  else .ok .done

/-- No normal response: the function code selects no format (R110; log entry 12 for a `PEND_FC` that is none
of the eight). -/
def bodyNone (_p : Pending) (_raw : List Byte) : Except ProtoDetail DecResult :=
  .error .functionMismatch

/-- Lines 1 to 7 of R160, then the body rule `body` of line 8. -/
def decWith (body : Pending → List Byte → Except ProtoDetail DecResult) (p : Pending) (raw : List Byte) :
    Except ProtoDetail DecResult :=
  match headerError p raw with
  | some d => .error d
  | none =>
    if byteAt raw 7 = (p.fc ||| 0x80) then .error (bodyExc raw)
    else if byteAt raw 7 ≠ p.fc then .error .functionMismatch
    else body p raw

/-- Line 8 of R160: the body rule of a function code. -/
def bodyOf (fc : Byte) : Pending → List Byte → Except ProtoDetail DecResult :=
  match FunctionCode.ofByte? fc with
  | none => bodyNone
  | some .readCoils | some .readDiscreteInputs => bodyBits
  | some .readHoldingRegisters | some .readInputRegisters => bodyRegs
  | some .writeSingleCoil | some .writeSingleRegister => bodyEcho
  | some .writeMultipleCoils | some .writeMultipleRegisters => bodyEcho

/-- `DEC(p, raw)`, the whole function (R160). -/
def dec (p : Pending) (raw : List Byte) : Except ProtoDetail DecResult :=
  decWith (bodyOf p.fc) p raw

/-- The RX_FRAME step on a frame of a row with function-code byte `f` and body rule `body` (R234). -/
def receiveRow (f : Byte) (body : Pending → List Byte → Except ProtoDetail DecResult) (r : RspFrame)
    (s : State) : Result :=
  receive (rspFrame f r) (decWith body (pendingOf s) (rspFrame f r)) s

/-- ReadCoils.rsp (R169). -/
def execReadCoilsRsp (r : RspFrame) (s : State) : Result := receiveRow 0x01 bodyBits r s

/-- ReadDiscreteInputs.rsp (R170). -/
def execReadDiscreteInputsRsp (r : RspFrame) (s : State) : Result := receiveRow 0x02 bodyBits r s

/-- ReadHoldingRegisters.rsp (R171). -/
def execReadHoldingRegistersRsp (r : RspFrame) (s : State) : Result := receiveRow 0x03 bodyRegs r s

/-- ReadInputRegisters.rsp (R172). -/
def execReadInputRegistersRsp (r : RspFrame) (s : State) : Result := receiveRow 0x04 bodyRegs r s

/-- WriteSingleCoil.rsp (R173). -/
def execWriteSingleCoilRsp (r : RspFrame) (s : State) : Result := receiveRow 0x05 bodyEcho r s

/-- WriteSingleRegister.rsp (R174). -/
def execWriteSingleRegisterRsp (r : RspFrame) (s : State) : Result := receiveRow 0x06 bodyEcho r s

/-- WriteMultipleCoils.rsp (R175). -/
def execWriteMultipleCoilsRsp (r : RspFrame) (s : State) : Result := receiveRow 0x0F bodyEcho r s

/-- WriteMultipleRegisters.rsp (R176). -/
def execWriteMultipleRegistersRsp (r : RspFrame) (s : State) : Result := receiveRow 0x10 bodyEcho r s

/-- ReadCoils.exc (R167). -/
def execReadCoilsExc (r : RspFrame) (s : State) : Result := receiveRow 0x81 bodyNone r s

/-- ReadDiscreteInputs.exc (R167). -/
def execReadDiscreteInputsExc (r : RspFrame) (s : State) : Result := receiveRow 0x82 bodyNone r s

/-- ReadHoldingRegisters.exc (R167). -/
def execReadHoldingRegistersExc (r : RspFrame) (s : State) : Result := receiveRow 0x83 bodyNone r s

/-- ReadInputRegisters.exc (R167). -/
def execReadInputRegistersExc (r : RspFrame) (s : State) : Result := receiveRow 0x84 bodyNone r s

/-- WriteSingleCoil.exc (R167). -/
def execWriteSingleCoilExc (r : RspFrame) (s : State) : Result := receiveRow 0x85 bodyNone r s

/-- WriteSingleRegister.exc (R167). -/
def execWriteSingleRegisterExc (r : RspFrame) (s : State) : Result := receiveRow 0x86 bodyNone r s

/-- WriteMultipleCoils.exc (R167). -/
def execWriteMultipleCoilsExc (r : RspFrame) (s : State) : Result := receiveRow 0x8F bodyNone r s

/-- WriteMultipleRegisters.exc (R167). -/
def execWriteMultipleRegistersExc (r : RspFrame) (s : State) : Result := receiveRow 0x90 bodyNone r s

end Sys2Proof.Machine
end

