-- ==== Sys2Proof/Machine/Dispatch.lean ====
section
/-! DEFINITION. One arm per row of spec/opcode_table.json. -/

namespace Sys2Proof.Machine

def exec (i : Instr) (s : State) : Host.Outcome State Fault Refusal :=
  match i with
  | .readCoils addr qty => Sys2Proof.Machine.execReadCoils addr qty s
  | .readDiscreteInputs addr qty => Sys2Proof.Machine.execReadDiscreteInputs addr qty s
  | .readHoldingRegisters addr qty => Sys2Proof.Machine.execReadHoldingRegisters addr qty s
  | .readInputRegisters addr qty => Sys2Proof.Machine.execReadInputRegisters addr qty s
  | .writeSingleCoil addr coil => Sys2Proof.Machine.execWriteSingleCoil addr coil s
  | .writeSingleRegister addr value => Sys2Proof.Machine.execWriteSingleRegister addr value s
  | .writeMultipleCoils addr qty bits => Sys2Proof.Machine.execWriteMultipleCoils addr qty bits s
  | .writeMultipleRegisters addr qty words => Sys2Proof.Machine.execWriteMultipleRegisters addr qty words s
  | .readCoilsRsp r => Sys2Proof.Machine.execReadCoilsRsp r s
  | .readDiscreteInputsRsp r => Sys2Proof.Machine.execReadDiscreteInputsRsp r s
  | .readHoldingRegistersRsp r => Sys2Proof.Machine.execReadHoldingRegistersRsp r s
  | .readInputRegistersRsp r => Sys2Proof.Machine.execReadInputRegistersRsp r s
  | .writeSingleCoilRsp r => Sys2Proof.Machine.execWriteSingleCoilRsp r s
  | .writeSingleRegisterRsp r => Sys2Proof.Machine.execWriteSingleRegisterRsp r s
  | .writeMultipleCoilsRsp r => Sys2Proof.Machine.execWriteMultipleCoilsRsp r s
  | .writeMultipleRegistersRsp r => Sys2Proof.Machine.execWriteMultipleRegistersRsp r s
  | .readCoilsExc r => Sys2Proof.Machine.execReadCoilsExc r s
  | .readDiscreteInputsExc r => Sys2Proof.Machine.execReadDiscreteInputsExc r s
  | .readHoldingRegistersExc r => Sys2Proof.Machine.execReadHoldingRegistersExc r s
  | .readInputRegistersExc r => Sys2Proof.Machine.execReadInputRegistersExc r s
  | .writeSingleCoilExc r => Sys2Proof.Machine.execWriteSingleCoilExc r s
  | .writeSingleRegisterExc r => Sys2Proof.Machine.execWriteSingleRegisterExc r s
  | .writeMultipleCoilsExc r => Sys2Proof.Machine.execWriteMultipleCoilsExc r s
  | .writeMultipleRegistersExc r => Sys2Proof.Machine.execWriteMultipleRegistersExc r s
  | .r2fLH words => Sys2Proof.Machine.execR2fLH words s
  | .r2fHL words => Sys2Proof.Machine.execR2fHL words s
  | .s16 word => Sys2Proof.Machine.execS16 word s

end Sys2Proof.Machine
end

