-- ==== Sys2Proof/Machine/System.lean ====
section
/-! DEFINITION. The steps that are no row of the opcode table: the transport's other events, SetUnit, host reads,
Reset (44_dispatcher.md R233, R235 to R239, R255; 70_reset_and_hazards.md R310). -/

namespace Sys2Proof.Machine

/-- `TX_DONE(ok)` (R233); outside SEND it leaves every register unchanged (R279). -/
def txDone (ok : Bool) (s : State) : State :=
  if s.phase = .send then
    if ok then { s with phase := .await } else raise s.pendFc (.transport .sendFailed) s
  else s

/-- `RX_FAIL` (R235). -/
def rxFail (s : State) : State :=
  if s.phase = .await then raise s.pendFc (.transport .receiveFailed) s else s

/-- `RX_TIMEOUT` (R236). -/
def rxTimeout (s : State) : State :=
  if s.phase = .await then raise s.pendFc .timeout s else s

/-- `ABORT`, in SEND and in AWAIT (R237). -/
def abort (s : State) : State :=
  if s.phase = .send ∨ s.phase = .await then raise s.pendFc (.transport .closed) s else s

/-- `SetUnit(u)`, in any phase (R238). -/
def setUnit (u : Byte) (s : State) : State := { s with cfgUnit := u }

/-- `Reset`, in any phase (R310): what the environment still holds at the ports is not the block's (log
entry 16). -/
def resetBlock (s : State) : State := { State.reset with inputs := s.inputs }

/-- `x` where the register holds a value, nothing where it holds none (R37). -/
def shown (w : Nat) (holds : Bool) (x : BitVec w) : Option (BitVec 16) :=
  if holds then some (x.setWidth 16) else none

/-- A one-bit register as a number. -/
def bit (b : Bool) : BitVec 1 := BitVec.ofBool b

/-- What a host read shows (R239, R34): `TID`, `PHASE`, `CFG_UNIT` and `RES_VALID` at any time, a result while
`RES_VALID` = 1, an element below `RES_COUNT` of the buffer that `RES_KIND` names (R37; log entry 2). -/
def readReg (s : State) : HostReg → Option (BitVec 16)
  | .tid => shown 16 true s.tid
  | .phase => shown 2 true (phaseCode s.phase)
  | .cfgUnit => shown 8 true s.cfgUnit
  | .pendTid => shown 16 (inFlight s) s.pendTid
  | .pendUnit => shown 8 (inFlight s) s.pendUnit
  | .pendFc => shown 8 (inFlight s) s.pendFc
  | .pendAddr => shown 16 (inFlight s) s.pendAddr
  | .pendQv => shown 16 (inFlight s) s.pendQv
  | .txLen => shown 9 (inFlight s) s.txLen
  | .rxExpect => shown 9 (inFlight s) s.rxExpect
  | .rxLen => shown 9 (decide (s.rxLen ≠ 0)) s.rxLen
  | .resValid => shown 1 true (bit s.resValid)
  | .resStatus => shown 3 s.resValid (statusCode s.resStatus)
  | .resDetail => shown 4 s.resValid s.resDetail
  | .resExc => shown 8 s.resValid s.resExc
  | .resOk => shown 1 s.resValid (bit s.resOk)
  | .resKind => shown 2 s.resValid (kindCode s.resKind)
  | .resCount => shown 11 s.resValid s.resCount
  | .resBit i =>
    shown 1 (s.resValid && decide (i < s.resCount.toNat) && decide (i < s.resBits.length))
      (bit (s.resBits.getD i false))
  | .resWord i =>
    shown 16 (s.resValid && decide (i < s.resCount.toNat) && decide (i < s.resWords.length))
      (s.resWords.getD i 0)

/-- The elements that exist: `RES_BITS[0..1999]`, `RES_WORDS[0..124]` (R33, R60). -/
def hostRegExists : HostReg → Bool
  | .resBit i => decide (i < config.resBitsSize)
  | .resWord i => decide (i < config.resWordsSize)
  | .tid | .phase | .cfgUnit | .pendTid | .pendUnit | .pendFc | .pendAddr | .pendQv => true
  | .txLen | .rxExpect | .rxLen | .resValid | .resStatus | .resDetail => true
  | .resExc | .resOk | .resKind | .resCount => true

/-- A host read (R239): no register changes, `RES_VALID` among them; what it shows stands in the model's own
`readOut`. -/
def hostRead (r : HostReg) (s : State) : Result :=
  if hostRegExists r then .next { s with readOut := readReg s r } else .fault .outsideBuffer

end Sys2Proof.Machine
end

