-- ==== Sys2Proof/Machine/Port.lean ====
section
/-! DEFINITION. The ports: which event the block takes next, and what taking it does (44_dispatcher.md R230, R231,
R249; 60_exceptions.md R279). -/

namespace Sys2Proof.Machine

/-- The one event whose step is not enabled in every phase and that waits: a command while another is
outstanding (R249). -/
def mustWait (p : Phase) : Input → Bool
  | .cmd _ => decide (p ≠ .idle)
  | .setUnit _ | .read _ | .conv _ | .reset => false
  | .txDone _ | .rxFrame _ | .rxFail | .rxTimeout | .abort => false

/-- The next event, and what stays at the ports: the first whose step does not have to wait (log entry 5). -/
def takeInput (p : Phase) : List Input → Option (Input × List Input)
  | [] => none
  | x :: rest =>
    if mustWait p x then (takeInput p rest).map fun y => (y.1, x :: y.2) else some (x, rest)

/-- A command at the command port: decoded by its `op`, then executed; a reserved op completes with
EncodingError (R109, R143). -/
def acceptCommand (c : Command) (s : State) : Result :=
  match decodeCommand c with
  | .ok i => exec i s
  | .error _ => execReservedOp c s

/-- `RX_FRAME(raw)`: outside AWAIT no effect (R279); an empty sequence is `RX_FAIL` (R235); a frame that is a
row of the table is executed, one that is none completes with the ProtocolError of `DEC` (R160, R234). -/
def acceptFrame (raw : List Byte) (s : State) : Result :=
  if s.phase = .await then
    if raw = [] then .next (rxFail s)
    else
      match decodeResponse s.pendFc raw with
      | .ok i => exec i s
      | .error _ => receive raw (dec (pendingOf s) raw) s
  else .next s

/-- The conversion port (R254): `conv_op` = 11 is reserved (R114; log entry 11). -/
def acceptConv (p : ConvInput) (s : State) : Result :=
  match decodeConv p with
  | .ok i => exec i s
  | .error _ => .refused .reservedConvOp

/-- One event taken: the steps of R230. -/
def accept (x : Input) (s : State) : Result :=
  match x with
  | .cmd c => acceptCommand c s
  | .setUnit u => .next (setUnit u s)
  | .read r => hostRead r s
  | .conv p => acceptConv p s
  | .reset => .next (resetBlock s)
  | .txDone ok => .next (txDone ok s)
  | .rxFrame raw => acceptFrame raw s
  | .rxFail => .next (rxFail s)
  | .rxTimeout => .next (rxTimeout s)
  | .abort => .next (abort s)

/-- One step: the first event that need not wait is taken; with none, the block waits and nothing changes,
since it has no step of its own accord (R8, R327; log entry 6). -/
def stepPorts (s : State) : Result :=
  match takeInput s.phase s.inputs with
  | none => .next s
  | some (x, rest) => accept x { s with inputs := rest }

/-- Places an encoded instruction at its port as the very next event, in the phase that takes it (log entry
9): a request as its command in IDLE, a response frame in AWAIT under the `PEND_FC` of its row, a conversion
as it is. -/
def placeInstr (i : Instr) (e : Encoded) (s : State) : State :=
  match e with
  | .request _ =>
    match encodeCommand i with
    | some c => { s with phase := .idle, inputs := .cmd c :: s.inputs }
    | none => s
  | .response raw => { s with phase := .await, pendFc := pendFcOf i, inputs := .rxFrame raw :: s.inputs }
  | .conv p => { s with inputs := .conv p :: s.inputs }

end Sys2Proof.Machine
end

