-- ==== Sys2Proof/Machine/Step.lean ====
section
/-! DEFINITION. The step, and the placing of an instruction word. -/

namespace Sys2Proof.Machine

/-- One step of the block (44_dispatcher.md R230). -/
def step (s : State) : Host.Outcome State Fault Refusal := stepPorts s

/-- `s` with the instruction of a word of spec/opcode_table.json placed where the next step takes it; `s` itself
where the word is no instruction (log entries 8 and 9). -/
def State.withFetchWord (s : State) (nbits w : Nat) : State :=
  match decodeTableWord nbits w with
  | some i => placeInstr i (tableEncoded nbits w) s
  | none => s

end Sys2Proof.Machine
end

