-- ==== Sys2Proof/Safety.lean ====
section
/-! DEFINITION. The terms the claims use: the states that the rules' completions give, written out field by field,
the invariants of 10_state.md R36, and the transition table of 44_dispatcher.md R251. -/

namespace Sys2Proof.Machine

/-- `P[j]` of R104: the sum over `b` in 0..7 with `8*j + b < q` of `bits[8*j + b] * 2^b`. -/
def coilByte (q : Nat) (bits : List Bool) (j : Nat) : Byte :=
  BitVec.ofNat 8
    ((List.range 8).map fun b =>
      if 8 * j + b < q then (bits.getD (8 * j + b) false).toNat * 2 ^ b else 0).sum

/-- The state after an accepted command (R232, R220): `frame` is presented, the identifier drawn is the old
`TID`. Nothing else changes. -/
def accepted (s : State) (op : Byte) (addr qv : Word) (expect : Nat) (frame : List Byte) : State :=
  { s with
    tid := s.tid + 1, resValid := false, txb := Memory.writeAll s.txb 0 frame,
    txLen := BitVec.ofNat 9 frame.length, pendTid := s.tid, pendUnit := s.cfgUnit, pendFc := op,
    pendAddr := addr, pendQv := qv, rxExpect := BitVec.ofNat 9 expect, phase := .send }

/-- The state after a completion with failure (R280). -/
def failed (s : State) (st : Status) (detail : BitVec 4) (exc : Byte) (kind : ResKind) : State :=
  { s with
    resStatus := st, resDetail := detail, resExc := exc, resOk := false, resKind := kind, resCount := 0,
    resBits := [], resWords := [], resValid := true, phase := .idle }

/-- The state after a command that `ENC` refuses: its identifier is spent (R223, R280). -/
def encodingFailed (s : State) (detail : BitVec 4) (kind : ResKind) : State :=
  failed { s with tid := s.tid + 1 } .encodingError detail 0 kind

/-- What RX_FRAME stores of a frame (R234). -/
def received (s : State) (raw : List Byte) : State :=
  { s with
    rxb := Memory.writeAll s.rxb 0 (raw.take 259), rxLen := BitVec.ofNat 9 (min raw.length 259) }

/-- The state after a completion with success (R248). -/
def succeeded (s : State) (kind : ResKind) (count : BitVec 11) (bits : List Bool) (words : List Word) :
    State :=
  { s with
    resStatus := .ok, resDetail := 0, resExc := 0, resOk := true, resKind := kind, resCount := count,
    resBits := bits, resWords := words, resValid := true, phase := .idle }

/-- The state after RX_FRAME in AWAIT on a frame that is not empty: the frame stored, and the completion that the
whole function `DEC` answers for the pending record (R160, R234, R248, R280). -/
def afterRxFrame (s : State) (raw : List Byte) : State :=
  match dec (pendingOf s) raw with
  | .ok (.bits l) => succeeded (received s raw) .bits (BitVec.ofNat 11 l.length) l []
  | .ok (.words l) => succeeded (received s raw) .words (BitVec.ofNat 11 l.length) [] l
  | .ok .done => succeeded (received s raw) .flag 0 [] []
  | .error d =>
    failed (received s raw) .protocolError (protoCode d)
      (match d with
        | .exception code => code
        | _ => 0)
      (kindOfOp s.pendFc)

/-- A received frame whose header passes lines 1 to 5 of R160 against the pending request. -/
def headerAgrees (s : State) (r : RspFrame) : Prop :=
  r.tid = s.pendTid ∧ r.length.toNat = r.body.length + 2 ∧ r.unit = s.pendUnit

/-- The canonical form and the bounds of the two buffers (20_memory.md R61, R62). -/
structure BuffersOk (s : State) : Prop where
  txbWf : s.txb.wf
  rxbWf : s.rxb.wf
  txbInside : ∀ e ∈ s.txb, e.1 < 263
  rxbInside : ∀ e ∈ s.rxb, e.1 < 259

/-- R36 (c) and (d), the codes that no rule writes (R29), and the result read as one value (R33). -/
structure ResultsAgree (s : State) : Prop where
  statusWritten :
    s.resStatus ≠ .unreachableError ∧ s.resStatus ≠ .connectError ∧ s.resStatus ≠ .reserved
  validIdle : s.resValid = true → s.phase = .idle
  okFlag : s.resValid = true → (s.resOk = true ↔ s.resStatus = .ok)
  countOk : s.resValid = true → s.resCount ≠ 0 →
    s.resStatus = .ok ∧ (s.resKind = .bits ∨ s.resKind = .words)
  excOnly : s.resValid = true → s.resExc ≠ 0 → s.resStatus = .protocolError ∧ s.resDetail = 7
  bitsCount : s.resBits.length = if s.resKind = .bits then s.resCount.toNat else 0
  wordsCount : s.resWords.length = if s.resKind = .words then s.resCount.toNat else 0

/-- `RX_EXPECT` of a command (R250). -/
def expectOf (c : Command) : Nat :=
  if c.op = 0x01 ∨ c.op = 0x02 then 9 + (c.qty.toNat + 7) / 8
  else if c.op = 0x03 ∨ c.op = 0x04 then 9 + 2 * c.qty.toNat
  else 12

/-- R36 (b) for the command `c` and its frame: what is presented is what `ENC` returned, and the latch holds
its fields. -/
structure InFlightAgrees (s : State) (c : Command) (frame : List Byte) : Prop where
  encoded : enc config s.pendTid s.pendUnit c = .ok frame
  presented : Memory.load 263 s.txb 0 s.txLen.toNat = .ok frame
  pendTid : s.pendTid = wordAt frame 0
  pendUnit : s.pendUnit = byteAt frame 6
  pendFc : s.pendFc = byteAt frame 7
  pendAddr : s.pendAddr = wordAt frame 8
  pendQv : s.pendQv = wordAt frame 10
  rxExpect : s.rxExpect.toNat = expectOf c
  notValid : s.resValid = false
  nextTid : s.tid = s.pendTid + 1

/-- R36 (a) and (b), and the sizes of the result buffers (R33). -/
structure RequestAgrees (s : State) : Prop where
  phaseLegal : s.phase ≠ .reserved
  inFlight : s.phase = .send ∨ s.phase = .await → ∃ c frame, InFlightAgrees s c frame
  bitsFit : s.resBits.length ≤ 2000
  wordsFit : s.resWords.length ≤ 125

/-- The row of the transition table R251 for this phase and event: the next phase, and the status and detail
of the completion if the row has one (details: R272 to R275). `Reset` is the table's last row; every other
pair changes nothing. -/
def transition (s : State) : Input → Phase × Option (Status × BitVec 4)
  | .cmd c =>
    if s.phase = .idle then
      match enc config s.tid s.cfgUnit c with
      | .ok _ => (.send, none)
      | .error d => (.idle, some (.encodingError, encCode d))
    else (s.phase, none)
  | .txDone true => if s.phase = .send then (.await, none) else (s.phase, none)
  | .txDone false => if s.phase = .send then (.idle, some (.transportError, 1)) else (s.phase, none)
  | .rxFrame raw =>
    if s.phase = .await then
      if raw = [] then (.idle, some (.transportError, 2))
      else
        match dec (pendingOf s) raw with
        | .ok _ => (.idle, some (.ok, 0))
        | .error d => (.idle, some (.protocolError, protoCode d))
    else (s.phase, none)
  | .rxFail => if s.phase = .await then (.idle, some (.transportError, 2)) else (s.phase, none)
  | .rxTimeout => if s.phase = .await then (.idle, some (.timeoutError, 0)) else (s.phase, none)
  | .abort =>
    if s.phase = .send ∨ s.phase = .await then (.idle, some (.transportError, 3)) else (s.phase, none)
  | .reset => (.idle, none)
  | .setUnit _ => (s.phase, none)
  | .read _ => (s.phase, none)
  | .conv _ => (s.phase, none)

/-- The answers the transport gives to a presented request (R231). -/
def transportAnswer : List Input → Bool
  | [.txDone false] => true
  | [.txDone true, .rxFrame raw] => !raw.isEmpty
  | [.txDone true, .rxFail] => true
  | [.txDone true, .rxTimeout] => true
  | [.txDone true, .abort] => true
  | [.abort] => true
  | _ => false

/-- A command has ended (R252). -/
def commandEnded (s : State) : Prop := s.resValid = true ∧ s.phase = .idle

end Sys2Proof.Machine
end

