-- ==== Sys2Proof/Certificates/Slice0/Obligations.lean ====
section
/-! DEFINITION. The statements for the provers. -/

open Sys2Proof Sys2Proof.Machine

/-! ## Encodings -/

/-- Every well-formed instruction, with every operand at every value, comes back from its encoding, read in
its direction and, for a response row, under the `PEND_FC` of the row (30_encoding.md R93 to R101, R107,
R110, R114). -/
def Obligations.DecodeAfterEncode : Prop :=
  ∀ (t : Word) (u : Byte) (i : Instr), i.wellFormed = true →
    decode (pendFcOf i) (encode t u i) = .ok i

/-- A frame that the response decoder accepts under `PEND_FC` = `e` matches the opcode table's row of the
instruction it gives, belongs to `e`, and is that instruction's encoding, byte for byte (R107, R110). -/
def Obligations.ResponseDecodingLosesNothing : Prop :=
  ∀ (t : Word) (u e : Byte) (raw : List Byte) (i : Instr), decodeResponse e raw = .ok i →
    pendFcOf i = e ∧ encode t u i = .response raw ∧
      ∃ row, tableRow i = some row ∧ row.matchesFrame raw = true

/-- A few words of the opcode table decode to their rows (R107): a sanity statement. -/
def Obligations.TableWordsDecode : Prop :=
  decodeTableWord 64 0x0000000000060001 = some (.readCoils 0 0) ∧
  decodeTableWord 64 0x000000000000000F = some (.writeMultipleCoils 0 0 []) ∧
  decodeTableWord 64 0x0000000000000003 =
    some (.readHoldingRegistersRsp { tid := 0, length := 0, unit := 0, body := [0] }) ∧
  decodeTableWord 64 0x0000000000000090 =
    some (.writeMultipleRegistersExc { tid := 0, length := 0, unit := 0, body := [0] }) ∧
  decodeTableWord 8 0x02 = some (.s16 0)

/-- For every frame that `ENC` returns, the `length` field equals the number of bytes after it (R140), for
every setting of the limits that R5 allows. -/
def Obligations.RequestLengthFieldCountsTheRest : Prop :=
  ∀ (k : Config) (t : Word) (u : Byte) (c : Command) (frame : List Byte), k.limitsFit = true →
    enc k t u c = .ok frame → (wordAt frame 4).toNat = frame.length - 6

/-- The frame sizes and `length` values of R141, on this hardware's limits. -/
def Obligations.RequestFrameSizes : Prop :=
  ∀ (t : Word) (u : Byte) (c : Command) (frame : List Byte), enc config t u c = .ok frame →
    (c.op = 0x01 ∨ c.op = 0x02 ∨ c.op = 0x03 ∨ c.op = 0x04 ∨ c.op = 0x05 ∨ c.op = 0x06 →
      frame.length = 12 ∧ (wordAt frame 4).toNat = 6) ∧
    (c.op = 0x0F →
      frame.length = 13 + (c.qty.toNat + 7) / 8 ∧ 14 ≤ frame.length ∧ frame.length ≤ 263 ∧
      (wordAt frame 4).toNat = 7 + (c.qty.toNat + 7) / 8 ∧
      8 ≤ (wordAt frame 4).toNat ∧ (wordAt frame 4).toNat ≤ 257) ∧
    (c.op = 0x10 →
      frame.length = 13 + 2 * c.qty.toNat ∧ 15 ≤ frame.length ∧ frame.length ≤ 263 ∧
      (wordAt frame 4).toNat = 7 + 2 * c.qty.toNat ∧
      9 ≤ (wordAt frame 4).toNat ∧ (wordAt frame 4).toNat ≤ 257)

/-- Bytes 0 and 1 of a request frame depend only on the identifier, byte 6 only on the unit, all others only
on the command; whether there is a frame, and which error there is, depends on neither identifier nor unit
(R142). -/
def Obligations.RequestFrameDependsOnItsInputs : Prop :=
  ∀ (k : Config) (t t' : Word) (u u' : Byte) (c : Command),
    match enc k t u c, enc k t' u' c with
    | .ok frame, .ok frame' =>
      frame.length = frame'.length ∧ wordAt frame 0 = t ∧ byteAt frame 6 = u ∧
        ∀ j, j ≠ 0 → j ≠ 1 → j ≠ 6 → frame[j]? = frame'[j]?
    | .error d, .error d' => d = d'
    | .ok _, .error _ => False
    | .error _, .ok _ => False

/-- Coil packing (R104): `ceil(q/8)` bytes; item `i` is bit `i mod 8` of byte `i div 8`; the bits past the
last item are 0; reading the packed bytes back as R169 reads a response gives the items. -/
def Obligations.CoilPackingIsBitForBit : Prop :=
  ∀ (qty : Word) (bits : List Bool), bits.length = qty.toNat →
    (packBits qty bits).length = (qty.toNat + 7) / 8 ∧
    (∀ i, i < qty.toNat →
      (byteAt (packBits qty bits) (i / 8)).getLsbD (i % 8) = bits.getD i false) ∧
    (∀ j b, j < (qty.toNat + 7) / 8 → b < 8 → qty.toNat ≤ 8 * j + b →
      (byteAt (packBits qty bits) j).getLsbD b = false) ∧
    unpackBits qty.toNat (packBits qty bits) = bits

/-- Why `ENC` refuses a command, each cause with its detail, in the priority of R131 and R283; nothing
depends on the address (20_memory.md R74). -/
def Obligations.EncodingErrorCauses : Prop :=
  ∀ (k : Config) (t : Word) (u : Byte) (c : Command),
    let reserved := c.op ≠ 0x01 ∧ c.op ≠ 0x02 ∧ c.op ≠ 0x03 ∧ c.op ≠ 0x04 ∧ c.op ≠ 0x05 ∧ c.op ≠ 0x06 ∧
      c.op ≠ 0x0F ∧ c.op ≠ 0x10
    let counted := ¬reserved ∧ c.op ≠ 0x05 ∧ c.op ≠ 0x06
    let max := if c.op = 0x01 ∨ c.op = 0x02 then k.maxRdBits
      else if c.op = 0x03 ∨ c.op = 0x04 then k.maxRdRegs
      else if c.op = 0x0F then k.maxWrBits else k.maxWrRegs
    let disagrees := (c.op = 0x0F ∧ c.bits.length ≠ c.qty.toNat) ∨
      (c.op = 0x10 ∧ c.words.length ≠ c.qty.toNat)
    (enc k t u c = .error .unsupportedFunction ↔ reserved) ∧
    (enc k t u c = .error .quantityZero ↔ counted ∧ c.qty = 0) ∧
    (enc k t u c = .error .quantityTooLarge ↔ counted ∧ c.qty ≠ 0 ∧ max < c.qty.toNat) ∧
    (enc k t u c = .error .payloadLength ↔
      counted ∧ c.qty ≠ 0 ∧ c.qty.toNat ≤ max ∧ disagrees) ∧
    enc k t u c ≠ .error .notTwoWords

/-- The frame that an accepted request presents to the transport is a whole frame that reads back as exactly
that request, and `RX_EXPECT` goes with it (R231, R232). -/
def Obligations.PresentedFrameIsTheCommand : Prop :=
  ∀ (s t : State) (i : Instr), (encodeCommand i).isSome = true → s.phase = .idle →
    exec i s = .next t → t.phase = .send →
      ∃ frame, presented t = some (frame, t.rxExpect) ∧ decodeRequest frame = .ok (i, [])

/-! ## The request instructions -/

/-- ReadCoils and ReadDiscreteInputs in IDLE (R132, R133, with R232, R250, R280): refused for quantity 0 and
above 2000, presented otherwise. -/
def Obligations.BitReadRequests : Prop :=
  ∀ (s : State) (addr qty : Word), s.phase = .idle →
    (qty = 0 →
      exec (.readCoils addr qty) s = .next (encodingFailed s 1 .bits) ∧
      exec (.readDiscreteInputs addr qty) s = .next (encodingFailed s 1 .bits)) ∧
    (2000 < qty.toNat →
      exec (.readCoils addr qty) s = .next (encodingFailed s 2 .bits) ∧
      exec (.readDiscreteInputs addr qty) s = .next (encodingFailed s 2 .bits)) ∧
    (1 ≤ qty.toNat → qty.toNat ≤ 2000 →
      exec (.readCoils addr qty) s =
        .next (accepted s 0x01 addr qty (9 + (qty.toNat + 7) / 8)
          [hi s.tid, lo s.tid, 0, 0, 0, 6, s.cfgUnit, 0x01, hi addr, lo addr, hi qty, lo qty]) ∧
      exec (.readDiscreteInputs addr qty) s =
        .next (accepted s 0x02 addr qty (9 + (qty.toNat + 7) / 8)
          [hi s.tid, lo s.tid, 0, 0, 0, 6, s.cfgUnit, 0x02, hi addr, lo addr, hi qty, lo qty]))

/-- ReadHoldingRegisters and ReadInputRegisters in IDLE (R134, R135, with R232, R250, R280): refused for
quantity 0 and above 125, presented otherwise. -/
def Obligations.RegisterReadRequests : Prop :=
  ∀ (s : State) (addr qty : Word), s.phase = .idle →
    (qty = 0 →
      exec (.readHoldingRegisters addr qty) s = .next (encodingFailed s 1 .words) ∧
      exec (.readInputRegisters addr qty) s = .next (encodingFailed s 1 .words)) ∧
    (125 < qty.toNat →
      exec (.readHoldingRegisters addr qty) s = .next (encodingFailed s 2 .words) ∧
      exec (.readInputRegisters addr qty) s = .next (encodingFailed s 2 .words)) ∧
    (1 ≤ qty.toNat → qty.toNat ≤ 125 →
      exec (.readHoldingRegisters addr qty) s =
        .next (accepted s 0x03 addr qty (9 + 2 * qty.toNat)
          [hi s.tid, lo s.tid, 0, 0, 0, 6, s.cfgUnit, 0x03, hi addr, lo addr, hi qty, lo qty]) ∧
      exec (.readInputRegisters addr qty) s =
        .next (accepted s 0x04 addr qty (9 + 2 * qty.toNat)
          [hi s.tid, lo s.tid, 0, 0, 0, 6, s.cfgUnit, 0x04, hi addr, lo addr, hi qty, lo qty]))

/-- WriteSingleCoil and WriteSingleRegister in IDLE (R136, R137, with R232, R250): never refused, whatever
the value. -/
def Obligations.SingleWriteRequests : Prop :=
  ∀ (s : State) (addr value : Word) (coil : Bool), s.phase = .idle →
    exec (.writeSingleCoil addr coil) s =
      .next (accepted s 0x05 addr (if coil then 0xFF00 else 0x0000) 12
        [hi s.tid, lo s.tid, 0, 0, 0, 6, s.cfgUnit, 0x05, hi addr, lo addr,
          if coil then 0xFF else 0x00, 0x00]) ∧
    exec (.writeSingleRegister addr value) s =
      .next (accepted s 0x06 addr value 12
        [hi s.tid, lo s.tid, 0, 0, 0, 6, s.cfgUnit, 0x06, hi addr, lo addr, hi value, lo value])

/-- WriteMultipleCoils in IDLE (R138, with R232, R250, R280): the causes of refusal in their order, else the
frame of 13 + `bc` bytes, packed by the sum of R104. -/
def Obligations.WriteMultipleCoilsRequest : Prop :=
  ∀ (s : State) (addr qty : Word) (bits : List Bool), s.phase = .idle →
    (qty = 0 → exec (.writeMultipleCoils addr qty bits) s = .next (encodingFailed s 1 .flag)) ∧
    (2000 < qty.toNat →
      exec (.writeMultipleCoils addr qty bits) s = .next (encodingFailed s 2 .flag)) ∧
    (1 ≤ qty.toNat → qty.toNat ≤ 2000 → bits.length ≠ qty.toNat →
      exec (.writeMultipleCoils addr qty bits) s = .next (encodingFailed s 3 .flag)) ∧
    (1 ≤ qty.toNat → qty.toNat ≤ 2000 → bits.length = qty.toNat →
      exec (.writeMultipleCoils addr qty bits) s =
        .next (accepted s 0x0F addr qty 12
          ([hi s.tid, lo s.tid, 0, 0,
            hi (BitVec.ofNat 16 (7 + (qty.toNat + 7) / 8)), lo (BitVec.ofNat 16 (7 + (qty.toNat + 7) / 8)),
            s.cfgUnit, 0x0F, hi addr, lo addr, hi qty, lo qty,
            BitVec.ofNat 8 ((qty.toNat + 7) / 8)] ++
            (List.range ((qty.toNat + 7) / 8)).map (coilByte qty.toNat bits))))

/-- WriteMultipleRegisters in IDLE (R139, with R232, R250, R280): the causes of refusal in their order, else
the frame of 13 + `2*qty` bytes. -/
def Obligations.WriteMultipleRegistersRequest : Prop :=
  ∀ (s : State) (addr qty : Word) (words : List Word), s.phase = .idle →
    (qty = 0 → exec (.writeMultipleRegisters addr qty words) s = .next (encodingFailed s 1 .flag)) ∧
    (125 < qty.toNat →
      exec (.writeMultipleRegisters addr qty words) s = .next (encodingFailed s 2 .flag)) ∧
    (1 ≤ qty.toNat → qty.toNat ≤ 125 → words.length ≠ qty.toNat →
      exec (.writeMultipleRegisters addr qty words) s = .next (encodingFailed s 3 .flag)) ∧
    (1 ≤ qty.toNat → qty.toNat ≤ 125 → words.length = qty.toNat →
      exec (.writeMultipleRegisters addr qty words) s =
        .next (accepted s 0x10 addr qty 12
          ([hi s.tid, lo s.tid, 0, 0,
            hi (BitVec.ofNat 16 (7 + 2 * qty.toNat)), lo (BitVec.ofNat 16 (7 + 2 * qty.toNat)),
            s.cfgUnit, 0x10, hi addr, lo addr, hi qty, lo qty,
            BitVec.ofNat 8 (2 * qty.toNat)] ++ words.flatMap fun w => [hi w, lo w])))

/-- While `PHASE` is not IDLE none of the eight requests has a step: executed there, it changes nothing, the
identifier among what stays (R249; that `exec` answers the unchanged state there is the model's choice, log entry
20). -/
def Obligations.BusyRequestChangesNothing : Prop :=
  ∀ (s : State) (i : Instr), (encodeCommand i).isSome = true → s.phase ≠ .idle → exec i s = .next s

/-- A command at the head of the ports while the block is busy waits there: the step is the step that the
inputs behind it would give, and the command stands at the head again afterwards (R249; that the waiting
command stands in `State.inputs` is the model's choice, log entry 5). -/
def Obligations.BusyCommandWaits : Prop :=
  ∀ (s : State) (c : Command) (rest : List Input), s.phase ≠ .idle → s.inputs = .cmd c :: rest →
    step s =
      match step { s with inputs := rest } with
      | .next t => .next { t with inputs := .cmd c :: t.inputs }
      | .fault f => .fault f
      | .refused r => .refused r

/-- A command with a reserved `op` draws an identifier and completes with EncodingError UnsupportedFunction,
`RES_KIND` NONE; nothing is sent (R109, R143, R280). -/
def Obligations.ReservedOpCompletes : Prop :=
  ∀ (s : State) (c : Command) (rest : List Input), s.phase = .idle → s.inputs = .cmd c :: rest →
    c.op ≠ 0x01 → c.op ≠ 0x02 → c.op ≠ 0x03 → c.op ≠ 0x04 → c.op ≠ 0x05 → c.op ≠ 0x06 →
    c.op ≠ 0x0F → c.op ≠ 0x10 →
      step s = .next (encodingFailed { s with inputs := rest } 5 .none)

/-! ## The response instructions -/

/-- ReadCoils.rsp and ReadDiscreteInputs.rsp in AWAIT under their own `PEND_FC`, the header agreeing (R169,
R170, with R234, R248, R280): `byteCount` = `ceil(q/8)` followed by exactly that many bytes gives `q` items,
item `i` being bit `i mod 8` of payload byte `i div 8`; anything else is BodyMalformed. -/
def Obligations.BitReadResponses : Prop :=
  ∀ (s : State) (r : RspFrame), s.phase = .await → headerAgrees s r →
    (∀ (bc : Byte) (payload : List Byte), r.body = bc :: payload →
      bc.toNat = (s.pendQv.toNat + 7) / 8 → payload.length = bc.toNat →
        ∃ l : List Bool, l.length = s.pendQv.toNat ∧
          (∀ i, i < s.pendQv.toNat → l[i]? = some ((payload.getD (i / 8) 0).getLsbD (i % 8))) ∧
          (s.pendFc = 0x01 → exec (.readCoilsRsp r) s =
            .next (succeeded (received s (rspFrame 0x01 r)) .bits (BitVec.ofNat 11 s.pendQv.toNat) l [])) ∧
          (s.pendFc = 0x02 → exec (.readDiscreteInputsRsp r) s =
            .next (succeeded (received s (rspFrame 0x02 r)) .bits (BitVec.ofNat 11 s.pendQv.toNat) l []))) ∧
    ((∀ (bc : Byte) (payload : List Byte), r.body = bc :: payload →
      bc.toNat = (s.pendQv.toNat + 7) / 8 → payload.length ≠ bc.toNat) →
        (s.pendFc = 0x01 → exec (.readCoilsRsp r) s =
          .next (failed (received s (rspFrame 0x01 r)) .protocolError 8 0 .bits)) ∧
        (s.pendFc = 0x02 → exec (.readDiscreteInputsRsp r) s =
          .next (failed (received s (rspFrame 0x02 r)) .protocolError 8 0 .bits)))

/-- ReadHoldingRegisters.rsp and ReadInputRegisters.rsp in AWAIT under their own `PEND_FC`, the header
agreeing (R171, R172, R181, with R234, R248, R280): `byteCount` = `2*q` followed by exactly that many bytes
gives `q` unsigned words, each from its own two bytes; anything else is BodyMalformed. -/
def Obligations.RegisterReadResponses : Prop :=
  ∀ (s : State) (r : RspFrame), s.phase = .await → headerAgrees s r →
    (∀ (bc : Byte) (payload : List Byte), r.body = bc :: payload →
      bc.toNat = 2 * s.pendQv.toNat → payload.length = bc.toNat →
        ∃ l : List Word, l.length = s.pendQv.toNat ∧
          (∀ i, i < s.pendQv.toNat → ∃ w, l[i]? = some w ∧
            w.toNat = (payload.getD (2 * i) 0).toNat * 256 + (payload.getD (2 * i + 1) 0).toNat) ∧
          (s.pendFc = 0x03 → exec (.readHoldingRegistersRsp r) s =
            .next (succeeded (received s (rspFrame 0x03 r)) .words (BitVec.ofNat 11 s.pendQv.toNat) [] l)) ∧
          (s.pendFc = 0x04 → exec (.readInputRegistersRsp r) s =
            .next (succeeded (received s (rspFrame 0x04 r)) .words (BitVec.ofNat 11 s.pendQv.toNat) [] l))) ∧
    ((∀ (bc : Byte) (payload : List Byte), r.body = bc :: payload →
      bc.toNat = 2 * s.pendQv.toNat → payload.length ≠ bc.toNat) →
        (s.pendFc = 0x03 → exec (.readHoldingRegistersRsp r) s =
          .next (failed (received s (rspFrame 0x03 r)) .protocolError 8 0 .words)) ∧
        (s.pendFc = 0x04 → exec (.readInputRegistersRsp r) s =
          .next (failed (received s (rspFrame 0x04 r)) .protocolError 8 0 .words)))

/-- The four write responses in AWAIT under their own `PEND_FC`, the header agreeing (R173 to R176, with
R234, R248, R280): a body of exactly the latched address and value succeeds; another body of four bytes is
EchoMismatch; a body that is not four bytes is BodyMalformed. -/
def Obligations.WriteResponsesCheckTheEcho : Prop :=
  ∀ (s : State) (r : RspFrame), s.phase = .await → headerAgrees s r →
    ∀ (f : Byte) (i : Instr),
      (f, i) ∈ [((0x05 : Byte), Instr.writeSingleCoilRsp r), (0x06, .writeSingleRegisterRsp r),
        (0x0F, .writeMultipleCoilsRsp r), (0x10, .writeMultipleRegistersRsp r)] →
      s.pendFc = f →
      exec i s =
        .next (
          if r.body = [hi s.pendAddr, lo s.pendAddr, hi s.pendQv, lo s.pendQv] then
            succeeded (received s (rspFrame f r)) .flag 0 [] []
          else if r.body.length = 4 then
            failed (received s (rspFrame f r)) .protocolError 9 0 .flag
          else failed (received s (rspFrame f r)) .protocolError 8 0 .flag)

/-- The eight exception responses in AWAIT under their own `PEND_FC`, the header agreeing (R167, with R234,
R280): the byte after the function code is reported unchanged, whatever follows it; with no such byte the
frame is BodyMalformed. Never data. -/
def Obligations.ExceptionResponsesReportTheirCode : Prop :=
  ∀ (s : State) (r : RspFrame), s.phase = .await → headerAgrees s r →
    ∀ (f : Byte) (i : Instr) (kind : ResKind),
      (f, i, kind) ∈ [((0x01 : Byte), Instr.readCoilsExc r, ResKind.bits),
        (0x02, .readDiscreteInputsExc r, .bits), (0x03, .readHoldingRegistersExc r, .words),
        (0x04, .readInputRegistersExc r, .words), (0x05, .writeSingleCoilExc r, .flag),
        (0x06, .writeSingleRegisterExc r, .flag), (0x0F, .writeMultipleCoilsExc r, .flag),
        (0x10, .writeMultipleRegistersExc r, .flag)] →
      s.pendFc = f →
      exec i s =
        .next (
          match r.body with
          | [] => failed (received s (rspFrame (f ||| 0x80) r)) .protocolError 8 0 kind
          | code :: _ => failed (received s (rspFrame (f ||| 0x80) r)) .protocolError 7 code kind)

/-- `DEC` whole, in the order of R160 (R160 to R165, R167, R168, R282): each cause of lines 1 to 7, when every earlier
check passes, is the one reported; and when all pass, line 8 is the body rule of the function code (R169 to R176), in
which BodyMalformed comes before EchoMismatch. -/
def Obligations.DecReportsTheFirstFault : Prop :=
  ∀ (p : Pending) (raw : List Byte),
    (raw.length < 8 → dec p raw = .error .tooShort) ∧
    (8 ≤ raw.length →
      (wordAt raw 0 ≠ p.tid → dec p raw = .error .tidMismatch) ∧
      (wordAt raw 0 = p.tid →
        (wordAt raw 2 ≠ 0 → dec p raw = .error .protocolId) ∧
        (wordAt raw 2 = 0 →
          ((wordAt raw 4).toNat ≠ raw.length - 6 → dec p raw = .error .lengthMismatch) ∧
          ((wordAt raw 4).toNat = raw.length - 6 →
            (byteAt raw 6 ≠ p.unit → dec p raw = .error .unitMismatch) ∧
            (byteAt raw 6 = p.unit →
              (byteAt raw 7 = p.fc ||| 0x80 →
                (9 ≤ raw.length → dec p raw = .error (.exception (byteAt raw 8))) ∧
                (raw.length = 8 → dec p raw = .error .bodyMalformed)) ∧
              (byteAt raw 7 ≠ p.fc ||| 0x80 → byteAt raw 7 ≠ p.fc →
                dec p raw = .error .functionMismatch) ∧
              (byteAt raw 7 = p.fc →
                (p.fc = 0x01 ∨ p.fc = 0x02 →
                  dec p raw =
                    if raw.length < 9 ∨ (byteAt raw 8).toNat ≠ (p.qv.toNat + 7) / 8 ∨
                        raw.length ≠ 9 + (byteAt raw 8).toNat then .error .bodyMalformed
                    else .ok (.bits ((List.range p.qv.toNat).map fun i =>
                      (byteAt raw (9 + i / 8)).getLsbD (i % 8)))) ∧
                (p.fc = 0x03 ∨ p.fc = 0x04 →
                  dec p raw =
                    if raw.length < 9 ∨ (byteAt raw 8).toNat ≠ 2 * p.qv.toNat ∨
                        raw.length ≠ 9 + (byteAt raw 8).toNat then .error .bodyMalformed
                    else .ok (.words ((List.range p.qv.toNat).map fun i => wordAt raw (9 + 2 * i)))) ∧
                (p.fc = 0x05 ∨ p.fc = 0x06 ∨ p.fc = 0x0F ∨ p.fc = 0x10 →
                  dec p raw =
                    if raw.length ≠ 12 then .error .bodyMalformed
                    else if wordAt raw 8 ≠ p.addr ∨ wordAt raw 10 ≠ p.qv then .error .echoMismatch
                    else .ok .done)))))))

/-- Every response instruction computes exactly `DEC`: in AWAIT, under any pending record and on any frame of
its row, it stores the frame and completes with what the whole function `DEC` of R160 answers; and so does the
step on any frame that is not empty, be it a row of the table or none (R234). -/
def Obligations.ResponseRowsComputeDec : Prop :=
  ∀ (s : State) (raw : List Byte), s.phase = .await →
    (∀ (i : Instr) (t : Word) (u : Byte), encode t u i = .response raw →
      exec i s = .next (afterRxFrame s raw)) ∧
    (∀ rest : List Input, raw ≠ [] → s.inputs = .rxFrame raw :: rest →
      step s = .next (afterRxFrame { s with inputs := rest } raw))

/-- `DEC` returns exactly `p.qv` elements when it returns data, from a frame that holds all of them, and never
data of a kind its function code does not have (R178, R180). -/
def Obligations.DataHasTheRequestedQuantity : Prop :=
  ∀ (p : Pending) (raw : List Byte),
    (∀ l, dec p raw = .ok (.bits l) →
      l.length = p.qv.toNat ∧ raw.length = 9 + (p.qv.toNat + 7) / 8 ∧ (p.fc = 0x01 ∨ p.fc = 0x02)) ∧
    (∀ l, dec p raw = .ok (.words l) →
      l.length = p.qv.toNat ∧ raw.length = 9 + 2 * p.qv.toNat ∧ (p.fc = 0x03 ∨ p.fc = 0x04)) ∧
    (dec p raw = .ok .done →
      raw.length = 12 ∧ (p.fc = 0x05 ∨ p.fc = 0x06 ∨ p.fc = 0x0F ∨ p.fc = 0x10))

/-- Padding bits are ignored (R112): two read responses that agree in length, in every byte before the last
and in the items of the last byte decode alike, whatever stands in the padding. -/
def Obligations.PaddingBitsIgnored : Prop :=
  ∀ (p : Pending) (front : List Byte) (x y : Byte), (p.fc = 0x01 ∨ p.fc = 0x02) →
    front.length + 1 = 9 + (p.qv.toNat + 7) / 8 → 1 ≤ p.qv.toNat →
    (∀ b, b < 8 → 8 * ((p.qv.toNat - 1) / 8) + b < p.qv.toNat → x.getLsbD b = y.getLsbD b) →
      dec p (front ++ [x]) = dec p (front ++ [y])

/-! ## The conversion port -/

/-- R2F.LH and R2F.HL in any phase (R200 to R202, R254): two words compose to the pattern that the order
says, any other number of words answers NotTwoWords on the port; no register changes, only the model's field
for the port's output (log entry 10). -/
def Obligations.RegistersToFloatComposes : Prop :=
  ∀ (s : State),
    (∀ (a b : Word), ∃ v w : BitVec 32,
      v.toNat = b.toNat * 65536 + a.toNat ∧ w.toNat = a.toNat * 65536 + b.toNat ∧
      exec (.r2fLH [a, b]) s = .next { s with convOut := .value v } ∧
      exec (.r2fHL [a, b]) s = .next { s with convOut := .value w } ∧
      exec (.r2fHL [b, a]) s = exec (.r2fLH [a, b]) s) ∧
    (∀ words : List Word, words.length ≠ 2 →
      exec (.r2fLH words) s = .next { s with convOut := .error .notTwoWords } ∧
      exec (.r2fHL words) s = .next { s with convOut := .error .notTwoWords })

/-- S16 in any phase (R204, R254): the port shows the 32-bit two's complement of the signed reading; no
register changes, only the model's field for the port's output (log entry 10). -/
def Obligations.SignedReadingOfAWord : Prop :=
  ∀ (s : State) (w : Word), ∃ v : BitVec 32,
    exec (.s16 w) s = .next { s with convOut := .value v } ∧
    v.toInt = if 0x8000 ≤ w.toNat then (w.toNat : Int) - 65536 else (w.toNat : Int)

/-! ## The step: what runs, and what every event may do -/

/-- A command at the head of the ports in IDLE runs the instruction it decodes to, on the state without that
input. -/
def Obligations.StepRunsTheCommand : Prop :=
  ∀ (s : State) (c : Command) (i : Instr) (rest : List Input), s.phase = .idle →
    s.inputs = .cmd c :: rest → decodeCommand c = .ok i → step s = exec i { s with inputs := rest }

/-- A frame at the head of the ports in AWAIT runs the instruction it decodes to under `PEND_FC`, on the state
without that input. -/
def Obligations.StepRunsTheResponse : Prop :=
  ∀ (s : State) (raw : List Byte) (i : Instr) (rest : List Input), s.phase = .await →
    s.inputs = .rxFrame raw :: rest → decodeResponse s.pendFc raw = .ok i →
      step s = exec i { s with inputs := rest }

/-- An operation at the conversion port runs the instruction it decodes to, in any phase; `conv_op` = 11 is
refused by name (R114, R254; the refusal is the model's form of "no operation", log entry 11). -/
def Obligations.StepRunsTheConversion : Prop :=
  ∀ (s : State) (p : ConvInput) (rest : List Input), s.inputs = .conv p :: rest →
    (∀ i, decodeConv p = .ok i → step s = exec i { s with inputs := rest }) ∧
    (p.op = 0b11 → step s = .refused .reservedConvOp)

/-- Every instruction completes in every state: `exec` never faults and never refuses. `ENC` and `DEC` are total
(R142, R178) and the conversions are available in any phase (R254); that a request outside IDLE and a response
outside AWAIT answer a next state, the unchanged one, is the model's choice (DESIGN CHOICE, log entry 20), since the
spec gives those cases no step. -/
def Obligations.EveryInstructionAnswersNext : Prop :=
  ∀ (i : Instr) (s : State), ∃ t, exec i s = .next t

/-- The step stops for two causes only: a host read of a result element that does not exist, and `conv_op`
= 11 (model's stops: log entries 11 and 14). -/
def Obligations.StepStopsOnlyOutsideTheSpec : Prop :=
  ∀ s : State,
    (∀ f, step s = .fault f → f = .outsideBuffer ∧
      ∃ r, .read r ∈ s.inputs ∧ ((∃ i, r = .resBit i ∧ 2000 ≤ i) ∨ (∃ i, r = .resWord i ∧ 125 ≤ i))) ∧
    (∀ r, step s = .refused r → r = .reservedConvOp ∧ ∃ p, .conv p ∈ s.inputs ∧ p.op = 0b11)

/-- The events of the transport that carry no frame (R233, R235 to R237, with R280): each completion with its
kind and detail, the accepted `TX_DONE`, and `ABORT` without effect in IDLE. -/
def Obligations.TransportEventsComplete : Prop :=
  ∀ (s : State) (rest : List Input),
    (s.phase = .send → s.inputs = .txDone true :: rest →
      step s = .next { s with inputs := rest, phase := .await }) ∧
    (s.phase = .send → s.inputs = .txDone false :: rest →
      step s = .next (failed { s with inputs := rest } .transportError 1 0 (kindOfOp s.pendFc))) ∧
    (s.phase = .await → s.inputs = .rxFail :: rest ∨ s.inputs = .rxFrame [] :: rest →
      step s = .next (failed { s with inputs := rest } .transportError 2 0 (kindOfOp s.pendFc))) ∧
    (s.phase = .await → s.inputs = .rxTimeout :: rest →
      step s = .next (failed { s with inputs := rest } .timeoutError 0 0 (kindOfOp s.pendFc))) ∧
    (s.phase = .send ∨ s.phase = .await → s.inputs = .abort :: rest →
      step s = .next (failed { s with inputs := rest } .transportError 3 0 (kindOfOp s.pendFc))) ∧
    (s.phase = .idle → s.inputs = .abort :: rest → step s = .next { s with inputs := rest })

/-- A transport event outside the phase that waits for it leaves every register unchanged (R279); it is taken
from the model's list of inputs (log entry 7). -/
def Obligations.EventsOutsideTheirPhaseDoNothing : Prop :=
  ∀ (s : State) (x : Input) (rest : List Input), s.inputs = x :: rest →
    ((∃ raw, x = .rxFrame raw) ∨ x = .rxFail ∨ x = .rxTimeout → s.phase ≠ .await →
      step s = .next { s with inputs := rest }) ∧
    ((∃ ok, x = .txDone ok) → s.phase ≠ .send → step s = .next { s with inputs := rest }) ∧
    (x = .abort → s.phase ≠ .send → s.phase ≠ .await → step s = .next { s with inputs := rest })

/-- The same for the sixteen response instructions: executed outside AWAIT they change nothing (R279; that `exec`
answers the unchanged state there is the model's choice, log entry 20). -/
def Obligations.ResponsesOutsideAwaitDoNothing : Prop :=
  ∀ (s : State) (i : Instr) (t : Word) (u : Byte) (raw : List Byte), encode t u i = .response raw →
    s.phase ≠ .await → exec i s = .next s

/-- `SetUnit(u)` in any phase writes `CFG_UNIT` and nothing else: the latch, the frame and the phase of a
request in flight stay (R238). -/
def Obligations.SetUnitWritesCfgUnit : Prop :=
  ∀ (s : State) (u : Byte) (rest : List Input), s.inputs = .setUnit u :: rest →
    step s = .next { s with inputs := rest, cfgUnit := u }

/-- `Reset` in any phase (R310, R35): `TID` 0, `PHASE` IDLE, `CFG_UNIT` 1, `RES_VALID` 0, and no other register,
result element or buffer byte shows a value (R37). The inputs the environment still holds stay (model's
choice, log entry 16). -/
def Obligations.ResetLeavesNoOtherValue : Prop :=
  ∀ (s : State) (rest : List Input), s.inputs = .reset :: rest →
    ∃ t, step s = .next t ∧ t.tid = 0 ∧ t.phase = .idle ∧ t.cfgUnit = 1 ∧ t.resValid = false ∧
      t.inputs = rest ∧
      (∀ r, r ≠ .tid → r ≠ .phase → r ≠ .cfgUnit → r ≠ .resValid → readReg t r = none) ∧
      (∀ a, Memory.read t.txb a = none ∧ Memory.read t.rxb a = none)

/-- A host read of a register or of an existing result element (R239, R34, R33, R37, R323): it changes no register,
in any phase; what it shows is shown again by the same read (R72); and it shows exactly this, for each register. `TID`,
`PHASE`, `CFG_UNIT` and `RES_VALID` always show their value, the numbers those of R25 and R32; the latch, `TX_LEN` and
`RX_EXPECT` in SEND and AWAIT; the result registers while `RES_VALID` = 1, the numbers those of R29 and R33; element
`i` of a result while `RES_VALID` = 1 and `i` is below `RES_COUNT`, if the buffer holds it. Where the state read holds
no value the step goes on and shows nothing: that, the same for an `RX_LEN` of 0, and the field the shown value stands
in, are the model's choice (DESIGN CHOICE, log entry 2; R37 leaves it between an option and a fault). -/
def Obligations.HostReadsChangeNoRegister : Prop :=
  ∀ (s : State) (r : HostReg) (rest : List Input), s.inputs = .read r :: rest → hostRegExists r = true →
    ∃ v, step s = .next { s with inputs := rest, readOut := v } ∧
      readReg { s with inputs := rest, readOut := v } r = v ∧
      match r with
      | .tid => v = some s.tid
      | .phase =>
        v = some (match s.phase with
          | .idle => 0
          | .send => 1
          | .await => 2
          | .reserved => 3)
      | .cfgUnit => v = some (s.cfgUnit.setWidth 16)
      | .pendTid => v = if s.phase = .send ∨ s.phase = .await then some s.pendTid else none
      | .pendUnit => v = if s.phase = .send ∨ s.phase = .await then some (s.pendUnit.setWidth 16) else none
      | .pendFc => v = if s.phase = .send ∨ s.phase = .await then some (s.pendFc.setWidth 16) else none
      | .pendAddr => v = if s.phase = .send ∨ s.phase = .await then some s.pendAddr else none
      | .pendQv => v = if s.phase = .send ∨ s.phase = .await then some s.pendQv else none
      | .txLen => v = if s.phase = .send ∨ s.phase = .await then some (s.txLen.setWidth 16) else none
      | .rxExpect => v = if s.phase = .send ∨ s.phase = .await then some (s.rxExpect.setWidth 16) else none
      | .rxLen => v = if s.rxLen = 0 then none else some (s.rxLen.setWidth 16)
      | .resValid => v = some (if s.resValid then 1 else 0)
      | .resStatus =>
        v = if s.resValid then
          some (match s.resStatus with
            | .ok => 0
            | .encodingError => 1
            | .transportError => 2
            | .timeoutError => 3
            | .protocolError => 4
            | .unreachableError => 5
            | .connectError => 6
            | .reserved => 7)
          else none
      | .resDetail => v = if s.resValid then some (s.resDetail.setWidth 16) else none
      | .resExc => v = if s.resValid then some (s.resExc.setWidth 16) else none
      | .resOk => v = if s.resValid then some (if s.resOk then 1 else 0) else none
      | .resKind =>
        v = if s.resValid then
          some (match s.resKind with
            | .none => 0
            | .bits => 1
            | .words => 2
            | .flag => 3)
          else none
      | .resCount => v = if s.resValid then some (s.resCount.setWidth 16) else none
      | .resBit i =>
        v = if s.resValid ∧ i < s.resCount.toNat then s.resBits[i]?.map (fun b => if b then 1 else 0) else none
      | .resWord i => v = if s.resValid ∧ i < s.resCount.toNat then s.resWords[i]? else none

/-- The transition table R251, complete: for every phase and event, the next phase, and the status and detail
of the completion if the row has one. A row without a completion leaves `RES_VALID` as it is, but for an
accepted command and `Reset`, which clear it. -/
def Obligations.PhaseFollowsTheTable : Prop :=
  ∀ (s t : State) (x : Input) (rest : List Input), s.inputs = x :: rest → mustWait s.phase x = false →
    step s = .next t →
      t.phase = (transition s x).1 ∧
      match (transition s x).2 with
      | some (st, d) =>
        t.resValid = true ∧ t.resStatus = st ∧ t.resDetail = d ∧ t.resOk = decide (st = .ok)
      | none =>
        t.resValid =
          match x with
          | .cmd _ => false
          | .reset => false
          | _ => s.resValid

/-- `TID` is written by `Next`, once per accepted command, failing or not, and by `Reset`; nothing else moves it
(R220, R223, R224). -/
def Obligations.TidMovesOnlyByNext : Prop :=
  ∀ (s t : State) (x : Input) (rest : List Input), s.inputs = x :: rest → mustWait s.phase x = false →
    step s = .next t →
      t.tid =
        match x with
        | .cmd _ => s.tid + 1
        | .reset => 0
        | _ => s.tid

/-- The pending latch, `TX_LEN`, `RX_EXPECT` and `TXB` are written by no event but a command and `Reset`; `RX_LEN`
and `RXB` by none but `RX_FRAME` and `Reset`; `CFG_UNIT` by none but `SetUnit` and `Reset` (R23, R28, R34). -/
def Obligations.EachRegisterHasItsWriter : Prop :=
  ∀ (s t : State) (x : Input) (rest : List Input), s.inputs = x :: rest → mustWait s.phase x = false →
    step s = .next t → x ≠ .reset →
      ((∀ c, x ≠ .cmd c) →
        t.pendTid = s.pendTid ∧ t.pendUnit = s.pendUnit ∧ t.pendFc = s.pendFc ∧ t.pendAddr = s.pendAddr ∧
        t.pendQv = s.pendQv ∧ t.txLen = s.txLen ∧ t.rxExpect = s.rxExpect ∧
        ∀ a, Memory.read t.txb a = Memory.read s.txb a) ∧
      ((∀ raw, x ≠ .rxFrame raw) →
        t.rxLen = s.rxLen ∧ ∀ a, Memory.read t.rxb a = Memory.read s.rxb a) ∧
      ((∀ u, x ≠ .setUnit u) → t.cfgUnit = s.cfgUnit)

/-- The result of a completed command stays readable until the next command's step or a reset: no other event
changes any result register or element (R239, R285, R323). -/
def Obligations.ResultsStayUntilTheNextCommand : Prop :=
  ∀ (s t : State) (x : Input) (rest : List Input), s.resValid = true → s.phase = .idle →
    s.inputs = x :: rest → step s = .next t → (∀ c, x ≠ .cmd c) → x ≠ .reset →
      t.resValid = true ∧ t.resStatus = s.resStatus ∧ t.resDetail = s.resDetail ∧ t.resExc = s.resExc ∧
      t.resOk = s.resOk ∧ t.resKind = s.resKind ∧ t.resCount = s.resCount ∧ t.resBits = s.resBits ∧
      t.resWords = s.resWords

/-- The bytes of the buffers (R61, R62, R232, R234, R280): an accepted request writes exactly the bytes of its
frame from offset 0 of `TXB`, a refused one none, and neither touches `RXB`; a response in AWAIT writes its
bytes, at most 259, from offset 0 of `RXB` and does not touch `TXB`; a conversion touches neither. -/
def Obligations.BytesOutsideTheFrameStay : Prop :=
  ∀ (s t : State) (i : Instr), exec i s = .next t → ∀ a : Nat,
    match encode s.tid s.cfgUnit i with
    | .request frame =>
      Memory.read t.txb a =
        (if s.phase = .idle ∧ t.phase = .send ∧ a < frame.length then frame[a]? else Memory.read s.txb a) ∧
      Memory.read t.rxb a = Memory.read s.rxb a
    | .response raw =>
      Memory.read t.rxb a =
        (if s.phase = .await ∧ a < min raw.length 259 then raw[a]? else Memory.read s.rxb a) ∧
      Memory.read t.txb a = Memory.read s.txb a
    | .conv _ =>
      Memory.read t.txb a = Memory.read s.txb a ∧ Memory.read t.rxb a = Memory.read s.rxb a

/-- Every accepted command ends (R251, R252): with any answer the transport may give (R231), the block is in
IDLE with `RES_VALID` = 1 after one step for the command and one for each event of the answer, and nothing of
what follows has been taken; a command that `ENC` refuses ends in its own step. -/
def Obligations.AcceptedCommandEnds : Prop :=
  ∀ (s : State) (c : Command) (answer rest : List Input), s.phase = .idle →
    (∀ frame, enc config s.tid s.cfgUnit c = .ok frame → transportAnswer answer = true →
      s.inputs = .cmd c :: (answer ++ rest) →
        ∃ t, Sys2Proof.core.run (1 + answer.length) s = .next t ∧ commandEnded t ∧ t.inputs = rest) ∧
    (∀ d, enc config s.tid s.cfgUnit c = .error d → s.inputs = .cmd c :: rest →
      ∃ t, Sys2Proof.core.run 1 s = .next t ∧ commandEnded t ∧ t.inputs = rest)

/-! ## Invariants -/

/-- Every step keeps the buffers in their canonical form and inside their sizes (R61, R62). -/
def Obligations.StepKeepsBuffers : Prop :=
  ∀ s t : State, BuffersOk s → step s = .next t → BuffersOk t

/-- Every step keeps R36 (c) and (d) and the result registers one value (R29, R32, R33). -/
def Obligations.StepKeepsResults : Prop :=
  ∀ s t : State, ResultsAgree s → step s = .next t → ResultsAgree t

/-- Every step keeps R36 (a) and (b): while a command is in flight, what is presented is what `ENC` returned for
it and the latch agrees with it; and the result buffers hold at most 2000 bits and 125 words (R33). -/
def Obligations.StepKeepsRequest : Prop :=
  ∀ s t : State, RequestAgrees s → step s = .next t → RequestAgrees t

/-- The invariants hold right after reset. -/
def Obligations.InvariantsAtReset : Prop :=
  BuffersOk State.reset ∧ ResultsAgree State.reset ∧ RequestAgrees State.reset

/-! ## The command port, the transport port and the size of a request frame -/

/-- What the request decoder reads at the head of a byte stream (R92, R107, R108): the frame ends `6 + length`
bytes after its start and lies whole in the stream; what follows it is left; that size is 12 for the fixed formats
and 13 + `byteCount` for the two multiple writes; the instruction is the one whose function code stands at offset
7, and the frame matches its row of the opcode table. -/
def Obligations.RequestDecodingAgreesWithLength : Prop :=
  ∀ (raw rest : List Byte) (i : Instr), decodeRequest raw = .ok (i, rest) →
    6 + (wordAt raw 4).toNat ≤ raw.length ∧ rest = raw.drop (6 + (wordAt raw 4).toNat) ∧
    6 + (wordAt raw 4).toNat =
      (if byteAt raw 7 = 0x0F ∨ byteAt raw 7 = 0x10 then 13 + (byteAt raw 12).toNat else 12) ∧
    (encodeCommand i).map (·.op) = some (byteAt raw 7) ∧
    ∃ row, tableRow i = some row ∧ row.matchesFrame raw = true

/-- The command port (R22, R113, R109): each of the eight values of `op` selects its row, with the record's own
fields for that row's operands and no other field; every other value is reserved; and the record of a request
instruction decodes to that instruction. -/
def Obligations.CommandRecordSelectsItsRow : Prop :=
  ∀ c : Command,
    (c.op = 0x01 → decodeCommand c = .ok (.readCoils c.addr c.qty)) ∧
    (c.op = 0x02 → decodeCommand c = .ok (.readDiscreteInputs c.addr c.qty)) ∧
    (c.op = 0x03 → decodeCommand c = .ok (.readHoldingRegisters c.addr c.qty)) ∧
    (c.op = 0x04 → decodeCommand c = .ok (.readInputRegisters c.addr c.qty)) ∧
    (c.op = 0x05 → decodeCommand c = .ok (.writeSingleCoil c.addr c.coil)) ∧
    (c.op = 0x06 → decodeCommand c = .ok (.writeSingleRegister c.addr c.value)) ∧
    (c.op = 0x0F → decodeCommand c = .ok (.writeMultipleCoils c.addr c.qty c.bits)) ∧
    (c.op = 0x10 → decodeCommand c = .ok (.writeMultipleRegisters c.addr c.qty c.words)) ∧
    (c.op ≠ 0x01 → c.op ≠ 0x02 → c.op ≠ 0x03 → c.op ≠ 0x04 → c.op ≠ 0x05 → c.op ≠ 0x06 → c.op ≠ 0x0F →
      c.op ≠ 0x10 → decodeCommand c = .error .reservedOp) ∧
    (∀ i, encodeCommand i = some c → decodeCommand c = .ok i)

/-- The step CMD on every command record (R232, with R220, R250, R280): it presents the frame that `ENC` gives for
the identifier in `TID`, the unit in `CFG_UNIT` and the record itself, latches what the response is checked against,
sets `RX_EXPECT` and enters SEND; where `ENC` refuses, the identifier is spent and the command completes with
EncodingError, `RES_KIND` from its `op`. -/
def Obligations.CommandStepPresentsEnc : Prop :=
  ∀ (s : State) (c : Command) (rest : List Input), s.phase = .idle → s.inputs = .cmd c :: rest →
    (∀ frame, enc config s.tid s.cfgUnit c = .ok frame →
      step s = .next (accepted { s with inputs := rest } c.op c.addr (wordAt frame 10) (expectOf c) frame)) ∧
    (∀ d, enc config s.tid s.cfgUnit c = .error d →
      step s = .next (encodingFailed { s with inputs := rest } (encCode d) (kindOfOp c.op)))

/-- What the transport reads (R34, R231, R28, R37): an accepted command's frame, its length and its `RX_EXPECT` while
`PHASE` = SEND; after `TX_DONE(true)`, in AWAIT, the two lengths still and `TXB` no longer; nothing in IDLE, where these
registers hold no value. -/
def Obligations.TransportReadsItsPort : Prop :=
  ∀ s : State,
    (∀ (c : Command) (frame : List Byte) (rest : List Input), s.phase = .idle →
      enc config s.tid s.cfgUnit c = .ok frame → s.inputs = .cmd c :: .txDone true :: rest →
        ∃ t t', step s = .next t ∧ step t = .next t' ∧
          transportView t =
            { txLen := some (BitVec.ofNat 9 frame.length)
              rxExpect := some (BitVec.ofNat 9 (expectOf c))
              frame := some frame } ∧
          transportView t' =
            { txLen := some (BitVec.ofNat 9 frame.length)
              rxExpect := some (BitVec.ofNat 9 (expectOf c))
              frame := none }) ∧
    (s.phase = .send →
      transportView s =
        { txLen := some s.txLen
          rxExpect := some s.rxExpect
          frame := (Memory.load 263 s.txb 0 s.txLen.toNat).toOption }) ∧
    (s.phase = .await →
      transportView s = { txLen := some s.txLen, rxExpect := some s.rxExpect, frame := none }) ∧
    (s.phase = .idle → transportView s = { txLen := none, rxExpect := none, frame := none })
end

