-- ==== Sys2Proof/Laws/Config.lean ====
section
/-! SUPPORT. The values of this hardware's parameters (00_scope.md R5). -/

namespace Sys2Proof

@[simp] theorem config_tidWidth : config.tidWidth = 16 := rfl
@[simp] theorem config_addrWidth : config.addrWidth = 16 := rfl
@[simp] theorem config_qtyWidth : config.qtyWidth = 16 := rfl
@[simp] theorem config_regWidth : config.regWidth = 16 := rfl
@[simp] theorem config_unitWidth : config.unitWidth = 8 := rfl
@[simp] theorem config_protocolId : config.protocolId = 0#16 := rfl
@[simp] theorem config_maxRdBits : config.maxRdBits = 2000 := rfl
@[simp] theorem config_maxWrBits : config.maxWrBits = 2000 := rfl
@[simp] theorem config_maxRdRegs : config.maxRdRegs = 125 := rfl
@[simp] theorem config_maxWrRegs : config.maxWrRegs = 125 := rfl
@[simp] theorem config_unitIdReset : config.unitIdReset = 1 := rfl
@[simp] theorem config_tidReset : config.tidReset = 0 := rfl
@[simp] theorem config_txbSize : config.txbSize = 263 := rfl
@[simp] theorem config_rxbSize : config.rxbSize = 259 := rfl
@[simp] theorem config_resBitsSize : config.resBitsSize = 2000 := rfl
@[simp] theorem config_resWordsSize : config.resWordsSize = 125 := rfl

/-- This hardware's limits meet the constraint of R5. -/
theorem config_limitsFit : config.limitsFit = true := rfl

/-- The widths of R5 are those of the types. -/
theorem config_widthsFit : config.widthsFit = true := rfl

/-- `Word` is the type of the transaction counter, of `startAddress`, of `quantity` and of a register word. -/
theorem word_eq_config_widths :
    Word = BitVec config.tidWidth ∧ Word = BitVec config.addrWidth ∧ Word = BitVec config.qtyWidth ∧
      Word = BitVec config.regWidth :=
  ⟨rfl, rfl, rfl, rfl⟩

/-- `Byte` is the type of `unitId`. -/
theorem byte_eq_unitWidth : Byte = BitVec config.unitWidth := rfl

end Sys2Proof
end

