-- ==== Sys2Proof/Laws/Operands.lean ====
section
/-! SUPPORT. The operand forms: byte order, packing, sizes, and the opcode map. -/

namespace Sys2Proof.Machine

theorem be16_toNat (b0 b1 : Byte) : (be16 b0 b1).toNat = b0.toNat * 256 + b1.toNat := by
  rw [be16, BitVec.toNat_append, ← Nat.shiftLeft_add_eq_or_of_lt b1.isLt, Nat.shiftLeft_eq]

theorem be16_hi_lo (v : Word) : be16 (hi v) (lo v) = v := by
  apply BitVec.eq_of_toNat_eq
  have := v.isLt
  simp only [be16_toNat, hi, lo, BitVec.extractLsb'_toNat, Nat.shiftRight_eq_div_pow]
  omega

theorem hi_be16 (b0 b1 : Byte) : hi (be16 b0 b1) = b0 := by
  apply BitVec.eq_of_toNat_eq
  have h0 := b0.isLt
  have h1 := b1.isLt
  simp only [hi, BitVec.extractLsb'_toNat, be16_toNat, Nat.shiftRight_eq_div_pow]
  omega

theorem lo_be16 (b0 b1 : Byte) : lo (be16 b0 b1) = b1 := by
  apply BitVec.eq_of_toNat_eq
  have h0 := b0.isLt
  have h1 := b1.isLt
  simp only [lo, BitVec.extractLsb'_toNat, be16_toNat, Nat.shiftRight_eq_div_pow]
  omega

@[simp] theorem hi_zero : hi 0#16 = 0#8 := rfl

@[simp] theorem lo_zero : lo 0#16 = 0#8 := rfl

@[simp] theorem byteAt_cons_zero (b : Byte) (l : List Byte) : byteAt (b :: l) 0 = b := rfl

@[simp] theorem byteAt_cons_succ (b : Byte) (l : List Byte) (k : Nat) :
    byteAt (b :: l) (k + 1) = byteAt l k := rfl

theorem byteAt_drop (l : List Byte) (n k : Nat) : byteAt (l.drop n) k = byteAt l (n + k) := by
  simp [byteAt]

theorem wordAt_drop (l : List Byte) (n k : Nat) : wordAt (l.drop n) k = wordAt l (n + k) := by
  simp only [wordAt, byteAt_drop, Nat.add_assoc]

theorem byteAt_eq_getElem {l : List Byte} {k : Nat} (h : k < l.length) : byteAt l k = l[k] := by
  simp [byteAt, h]

@[simp] theorem length_packBits (qty : Word) (bits : List Bool) :
    (packBits qty bits).length = bitsByteCount qty := by
  simp [packBits]

@[simp] theorem length_packWords (ws : List Word) : (packWords ws).length = 2 * ws.length := by
  induction ws with
  | nil => rfl
  | cons w ws ih => simp [packWords, ih]; omega

@[simp] theorem length_unpackBits (q : Nat) (l : List Byte) : (unpackBits q l).length = q := by
  simp [unpackBits]

@[simp] theorem length_unpackWords (q : Nat) (l : List Byte) : (unpackWords q l).length = q := by
  simp [unpackWords]

theorem wordAt_packWords (ws : List Word) (i : Nat) (h : i < ws.length) :
    wordAt (packWords ws) (2 * i) = ws[i] := by
  induction ws generalizing i with
  | nil => simp at h
  | cons w ws ih =>
    cases i with
    | zero => simp [packWords, wordAt, be16_hi_lo]
    | succ i =>
      have := ih i (by simpa using h)
      rw [show 2 * (i + 1) = 2 * i + 1 + 1 by omega]
      simpa [packWords, wordAt] using this

/-- The words of a register payload come back (R105, R171). -/
theorem unpackWords_packWords (ws : List Word) (tail : List Byte) :
    unpackWords ws.length (packWords ws ++ tail) = ws := by
  apply List.ext_getElem
  · simp
  · intro i h1 h2
    have hlen : 2 * i + 1 < (packWords ws).length := by simp; omega
    have happ : wordAt (packWords ws ++ tail) (2 * i) = wordAt (packWords ws) (2 * i) := by
      simp only [wordAt, byteAt, List.getD_eq_getElem?_getD]
      rw [List.getElem?_append_left (by omega), List.getElem?_append_left hlen]
    simp [unpackWords, happ, wordAt_packWords ws i h2]

@[simp] theorem ofByte?_toByte (fc : FunctionCode) : FunctionCode.ofByte? fc.toByte = some fc := by
  cases fc <;> rfl

/-- The opcode map has exactly the eight codes (R106). -/
theorem toByte_of_ofByte? {b : Byte} {fc : FunctionCode} (h : FunctionCode.ofByte? b = some fc) :
    fc.toByte = b := by
  unfold FunctionCode.ofByte? at h
  repeat' split at h
  all_goals first
    | (cases h; subst_vars; rfl)
    | (cases h)

/-- No function code has bit 7, so an exception's code is never a function code (R110). -/
theorem or_0x80_ne (fc : FunctionCode) : (fc.toByte ||| 0x80) ≠ fc.toByte := by
  cases fc <;> decide

end Sys2Proof.Machine
end

