-- ==== Sys2Proof/Laws/Frames.lean ====
section
/-! SUPPORT. The fields of the frames, said once: sizes, offsets, and what the checks of `DEC` see of a response
frame. -/

namespace Sys2Proof.Machine

/-- The header of a request, whatever follows it (R91, R130). -/
theorem header_fields (k : Config) (t : Word) (u : Byte) (len : Nat) (f : Byte) (a : Word) (tail : List Byte) :
    wordAt (header k t u len f a ++ tail) 0 = t ∧ wordAt (header k t u len f a ++ tail) 2 = k.protocolId ∧
    wordAt (header k t u len f a ++ tail) 4 = BitVec.ofNat 16 len ∧
    byteAt (header k t u len f a ++ tail) 6 = u ∧ byteAt (header k t u len f a ++ tail) 7 = f ∧
    wordAt (header k t u len f a ++ tail) 8 = a ∧
    (header k t u len f a ++ tail).length = 10 + tail.length := by
  refine ⟨?_, ?_, ?_, ?_, ?_, ?_, ?_⟩ <;> simp [header, wordAt, be16_hi_lo]
  omega

/-- What follows the header stands from offset 10 on. -/
theorem drop_header (k : Config) (t : Word) (u : Byte) (len : Nat) (f : Byte) (a : Word) (tail : List Byte) (n : Nat) :
    (header k t u len f a ++ tail).drop (10 + n) = tail.drop n := by
  rw [Nat.add_comm]; simp [header]

theorem byteAt_header (k : Config) (t : Word) (u : Byte) (len : Nat) (f : Byte) (a : Word) (tail : List Byte) (n : Nat) :
    byteAt (header k t u len f a ++ tail) (10 + n) = byteAt tail n := by
  have h := drop_header k t u len f a tail 0
  simp only [Nat.add_zero, List.drop_zero] at h
  rw [← byteAt_drop, h]

theorem wordAt_header (k : Config) (t : Word) (u : Byte) (len : Nat) (f : Byte) (a : Word) (tail : List Byte) (n : Nat) :
    wordAt (header k t u len f a ++ tail) (10 + n) = wordAt tail n := by
  simp only [wordAt, Nat.add_assoc, byteAt_header]

@[simp] theorem length_reqFixed (k : Config) (t : Word) (u f : Byte) (a v : Word) : (reqFixed k t u f a v).length = 12 := rfl

theorem wordAt_reqFixed_ten (k : Config) (t : Word) (u f : Byte) (a v : Word) : wordAt (reqFixed k t u f a v) 10 = v := by
  simpa [reqFixed, wordAt, be16_hi_lo] using wordAt_header k t u 6 f a [hi v, lo v] 0

theorem length_reqMCoils (k : Config) (t : Word) (u : Byte) (a qty : Word) (bits : List Bool) :
    (reqMCoils k t u a qty bits).length = 13 + bitsByteCount qty := by
  simp [reqMCoils, header]; omega

theorem length_reqMRegs (k : Config) (t : Word) (u : Byte) (a qty : Word) (words : List Word)
    (h : words.length = qty.toNat) : (reqMRegs k t u a qty words).length = 13 + regsByteCount qty := by
  simp [reqMRegs, header, h, regsByteCount]; omega

@[simp] theorem length_rspFrame (f : Byte) (r : RspFrame) :
    (rspFrame f r).length = 8 + r.body.length := by
  simp [rspFrame]; omega

/-- The header of a response frame (R91). -/
theorem rspFrame_fields (f : Byte) (r : RspFrame) :
    wordAt (rspFrame f r) 0 = r.tid ∧ wordAt (rspFrame f r) 2 = 0 ∧ wordAt (rspFrame f r) 4 = r.length ∧
    byteAt (rspFrame f r) 6 = r.unit ∧ byteAt (rspFrame f r) 7 = f := by
  refine ⟨?_, ?_, ?_, ?_, ?_⟩ <;> simp [rspFrame, wordAt, be16_hi_lo]
  rfl

/-- The body of a response frame stands from offset 8 on. -/
theorem byteAt_rspFrame (f : Byte) (r : RspFrame) (k : Nat) :
    byteAt (rspFrame f r) (8 + k) = byteAt r.body k := by
  rw [Nat.add_comm]; simp [rspFrame]

/-- Lines 1 to 5 of R160 pass exactly when the header agrees (R166). -/
theorem headerError_eq_none {p : Pending} {raw : List Byte} :
    headerError p raw = none ↔
      8 ≤ raw.length ∧ wordAt raw 0 = p.tid ∧ wordAt raw 2 = 0 ∧
      (wordAt raw 4).toNat = raw.length - 6 ∧ byteAt raw 6 = p.unit := by
  unfold headerError
  rw [show config.protocolId = 0 from rfl]
  by_cases h0 : raw.length < 8
  · rw [if_pos h0]; simp only [reduceCtorEq, false_iff]; omega
  by_cases h1 : wordAt raw 0 = p.tid <;> by_cases h2 : wordAt raw 2 = 0 <;>
    by_cases h3 : (wordAt raw 4).toNat = raw.length - 6 <;> by_cases h4 : byteAt raw 6 = p.unit <;>
    simp only [h0, h1, h2, h3, h4, ne_eq, not_true, not_false_iff, if_true, if_false, reduceCtorEq,
      and_true, and_false, true_iff] <;> omega

/-- `RSP_ECHO` answers Done, EchoMismatch or BodyMalformed (R173 to R176). -/
theorem bodyEcho_cases (p : Pending) (raw : List Byte) :
    (raw.length ≠ 12 ∧ bodyEcho p raw = .error .bodyMalformed) ∨
    (raw.length = 12 ∧ (wordAt raw 8 ≠ p.addr ∨ wordAt raw 10 ≠ p.qv) ∧
      bodyEcho p raw = .error .echoMismatch) ∨
    (raw.length = 12 ∧ wordAt raw 8 = p.addr ∧ wordAt raw 10 = p.qv ∧ bodyEcho p raw = .ok .done) := by
  unfold bodyEcho
  by_cases h : raw.length = 12
  · by_cases hm : wordAt raw 8 ≠ p.addr ∨ wordAt raw 10 ≠ p.qv
    · exact .inr (.inl ⟨h, hm, by rw [if_neg (by simpa using h), if_pos hm]⟩)
    · obtain ⟨h8, h10⟩ := not_or.1 hm
      exact .inr (.inr ⟨h, Decidable.not_not.1 h8, Decidable.not_not.1 h10,
        by rw [if_neg (by simpa using h), if_neg hm]⟩)
  · exact .inl ⟨h, by rw [if_pos h]⟩

/-- The size checks of a read response, on a response frame (R169, R171). -/
theorem readBodyFits_rspFrame (want : Nat) (f : Byte) (r : RspFrame) :
    readBodyFits want (rspFrame f r) = true ↔
      ∃ bc payload, r.body = bc :: payload ∧ bc.toNat = want ∧ payload.length = bc.toNat := by
  have h8 := byteAt_rspFrame f r 0
  simp only [Nat.add_zero] at h8
  simp only [readBodyFits, Bool.and_eq_true, decide_eq_true_eq, h8, length_rspFrame]
  cases hb : r.body with
  | nil => simp
  | cons a l =>
    simp
    omega

/-- A request frame decodes when its row does and its `length` field agrees with its size (R92, R108). -/
theorem decodeRequest_ok {raw : List Byte} {x : Instr × List Byte} :
    decodeRequest raw = .ok x ↔
      decodeRequestRow raw = .ok x ∧ (wordAt raw 4).toNat + 6 = requestSize raw := by
  unfold decodeRequest
  cases decodeRequestRow raw with
  | error e => simp
  | ok y => by_cases h : (wordAt raw 4).toNat + 6 = requestSize raw <;> simp [h]

end Sys2Proof.Machine
end

