-- ==== Sys2Proof/Laws/Memory.lean ====
section
/-! SUPPORT. What the buffer operations do, said once: read after write, the canonical form, the bounds, and
MemRead after MemWrite. -/

namespace Sys2Proof.Machine

/-- The buffers right after reset are in canonical form. -/
theorem State.reset_wf : State.reset.txb.wf ∧ State.reset.rxb.wf := by decide

@[simp] theorem Memory.read_nil (a : Nat) : Memory.read [] a = none := rfl

/-- A read after a write: the byte written at its address, what was there elsewhere. -/
theorem Memory.read_write (m : Memory) (a c : Nat) (b : Byte) :
    (m.write a b).read c = if c = a then some b else m.read c := by
  induction m with
  | nil => simp [Memory.write, Memory.read, eq_comm]
  | cons e rest ih =>
    obtain ⟨k, x⟩ := e
    simp only [Memory.write]
    split
    · simp [Memory.read, eq_comm]
    · split
      · subst_vars
        by_cases h : c = k
        · simp [Memory.read, h]
        · simp [Memory.read, h, Ne.symm h]
      · by_cases h : k = c
        · subst h
          simp [Memory.read, Ne.symm ‹¬a = k›]
        · simp [Memory.read, h, ih]

/-- Every address of the buffer after a write is an old one or the one written. -/
theorem Memory.mem_write {m : Memory} {a : Nat} {b : Byte} {e : Host.Cell} (h : e ∈ m.write a b) :
    e ∈ m ∨ e = (a, b) := by
  induction m with
  | nil => exact .inr (by simpa [Memory.write] using h)
  | cons f rest ih =>
    simp only [Memory.write] at h
    split at h
    · rcases List.mem_cons.1 h with h | h
      · exact .inr h
      · exact .inl h
    · split at h
      · rcases List.mem_cons.1 h with h | h
        · exact .inr h
        · exact .inl (List.mem_cons_of_mem _ h)
      · rcases List.mem_cons.1 h with h | h
        · exact .inl (h ▸ List.mem_cons_self)
        · exact (ih h).imp (List.mem_cons_of_mem _) id

/-- A write keeps the canonical form. -/
theorem Memory.wf_write {m : Memory} (h : m.wf) (a : Nat) (b : Byte) : (m.write a b).wf := by
  induction m with
  | nil => simp [Memory.write]
  | cons e rest ih =>
    obtain ⟨k, x⟩ := e
    obtain ⟨hk, hr⟩ := List.pairwise_cons.1 h
    simp only [Memory.write]
    split
    · refine List.pairwise_cons.2 ⟨fun f hf => ?_, h⟩
      rcases List.mem_cons.1 hf with rfl | hf
      · assumption
      · exact Nat.lt_trans ‹a < k› (hk f hf)
    · split
      · subst_vars
        exact List.pairwise_cons.2 ⟨hk, hr⟩
      · refine List.pairwise_cons.2 ⟨fun f hf => ?_, ih hr⟩
        rcases Memory.mem_write hf with hf | rfl
        · exact hk f hf
        · exact Nat.lt_of_le_of_ne (Nat.le_of_not_lt ‹_›) (Ne.symm ‹_›)

/-- Writing a sequence keeps the canonical form. -/
theorem Memory.wf_writeAll (bytes : List Byte) {m : Memory} (h : m.wf) (a : Nat) :
    (m.writeAll a bytes).wf := by
  induction bytes generalizing m a with
  | nil => exact h
  | cons b rest ih => exact ih (Memory.wf_write h a b) (a + 1)

/-- Every address after writing a sequence is an old one or one of the sequence's. -/
theorem Memory.mem_writeAll (bytes : List Byte) {m : Memory} {a : Nat} {e : Host.Cell}
    (h : e ∈ m.writeAll a bytes) : e ∈ m ∨ (a ≤ e.1 ∧ e.1 < a + bytes.length) := by
  induction bytes generalizing m a with
  | nil => exact .inl h
  | cons b rest ih =>
    rcases ih h with h | h
    · rcases Memory.mem_write h with h | rfl
      · exact .inl h
      · exact .inr ⟨Nat.le_refl _, by simp⟩
    · exact .inr ⟨by omega, by simp only [List.length_cons]; omega⟩

/-- A read after writing a sequence: the sequence inside it, what was there outside. -/
theorem Memory.read_writeAll (bytes : List Byte) (m : Memory) (a c : Nat) :
    (m.writeAll a bytes).read c =
      if a ≤ c ∧ c < a + bytes.length then bytes[c - a]? else m.read c := by
  induction bytes generalizing m a with
  | nil =>
    rw [if_neg (by simp only [List.length_nil]; omega)]; rfl
  | cons b rest ih =>
    rw [Memory.writeAll, ih, Memory.read_write]
    simp only [List.length_cons]
    by_cases h1 : a + 1 ≤ c ∧ c < a + 1 + rest.length
    · rw [if_pos h1, if_pos (by omega), show c - a = (c - (a + 1)) + 1 by omega]; simp
    · rw [if_neg h1]
      by_cases h2 : c = a
      · subst h2; simp
      · rw [if_neg h2, if_neg (by omega)]

/-- `MemWrite` answers a buffer exactly where the bytes fit. -/
theorem Memory.store_eq_ok {size : Nat} {m m' : Memory} {a : Nat} {bytes : List Byte} :
    Memory.store size m a bytes = .ok m' ↔ a + bytes.length ≤ size ∧ m' = m.writeAll a bytes := by
  unfold Memory.store; split <;> simp_all [eq_comm]

/-- `MemWrite` where the bytes fit. -/
theorem Memory.store_of_le {size : Nat} (m : Memory) {a : Nat} {bytes : List Byte}
    (h : a + bytes.length ≤ size) : Memory.store size m a bytes = .ok (m.writeAll a bytes) :=
  Memory.store_eq_ok.2 ⟨h, rfl⟩

/-- `MemWrite` keeps the canonical form. -/
theorem Memory.wf_store {size : Nat} {m m' : Memory} {a : Nat} {bytes : List Byte} (hm : m.wf)
    (h : Memory.store size m a bytes = .ok m') : m'.wf := by
  obtain ⟨-, rfl⟩ := Memory.store_eq_ok.1 h
  exact Memory.wf_writeAll bytes hm a

/-- `MemWrite` keeps every address inside the buffer. -/
theorem Memory.inside_store {size : Nat} {m m' : Memory} {a : Nat} {bytes : List Byte}
    (hm : ∀ e ∈ m, e.1 < size) (h : Memory.store size m a bytes = .ok m') : ∀ e ∈ m', e.1 < size := by
  obtain ⟨hle, rfl⟩ := Memory.store_eq_ok.1 h
  intro e he
  rcases Memory.mem_writeAll bytes he with he | ⟨-, he⟩
  · exact hm e he
  · omega

/-- `MemRead` answers the bytes that lie there. -/
theorem Memory.load_eq_ok {size : Nat} {m : Memory} (bytes : List Byte) (a : Nat)
    (hin : a + bytes.length ≤ size) (h : ∀ k, k < bytes.length → m.read (a + k) = bytes[k]?) :
    Memory.load size m a bytes.length = .ok bytes := by
  induction bytes generalizing a with
  | nil => rfl
  | cons b rest ih =>
    have h0 : m.read a = some b := by simpa using h 0 (by simp)
    have hr := ih (a + 1) (by simp only [List.length_cons] at hin; omega) fun k hk => by
      have := h (k + 1) (by simpa using hk)
      rw [show a + 1 + k = a + (k + 1) by omega]; simpa using this
    simp only [List.length_cons] at hin
    simp [Memory.load, h0, hr, show a < size by omega, Except.map]

/-- `MemRead` after `MemWrite` of the same bytes at the same place. -/
theorem Memory.load_writeAll {size : Nat} (m : Memory) (a : Nat) (bytes : List Byte)
    (hin : a + bytes.length ≤ size) :
    Memory.load size (m.writeAll a bytes) a bytes.length = .ok bytes := by
  refine Memory.load_eq_ok bytes a hin fun k hk => ?_
  rw [Memory.read_writeAll, if_pos (by omega), Nat.add_sub_cancel_left]

end Sys2Proof.Machine
end

