-- ==== Sys2Proof/Laws/State.lean ====
section
/-! SUPPORT. One lemma per field per named update of the state, true by rfl, so that no proof unfolds a record
update. -/

namespace Sys2Proof.Machine

@[simp] theorem spendTid_tid (s : State) : (spendTid s).tid = s.tid + 1 := rfl
@[simp] theorem spendTid_phase (s : State) : (spendTid s).phase = s.phase := rfl
@[simp] theorem spendTid_cfgUnit (s : State) : (spendTid s).cfgUnit = s.cfgUnit := rfl
@[simp] theorem spendTid_pendTid (s : State) : (spendTid s).pendTid = s.pendTid := rfl
@[simp] theorem spendTid_pendUnit (s : State) : (spendTid s).pendUnit = s.pendUnit := rfl
@[simp] theorem spendTid_pendFc (s : State) : (spendTid s).pendFc = s.pendFc := rfl
@[simp] theorem spendTid_pendAddr (s : State) : (spendTid s).pendAddr = s.pendAddr := rfl
@[simp] theorem spendTid_pendQv (s : State) : (spendTid s).pendQv = s.pendQv := rfl
@[simp] theorem spendTid_txLen (s : State) : (spendTid s).txLen = s.txLen := rfl
@[simp] theorem spendTid_rxExpect (s : State) : (spendTid s).rxExpect = s.rxExpect := rfl
@[simp] theorem spendTid_rxLen (s : State) : (spendTid s).rxLen = s.rxLen := rfl
@[simp] theorem spendTid_resValid (s : State) : (spendTid s).resValid = false := rfl
@[simp] theorem spendTid_resStatus (s : State) : (spendTid s).resStatus = s.resStatus := rfl
@[simp] theorem spendTid_resDetail (s : State) : (spendTid s).resDetail = s.resDetail := rfl
@[simp] theorem spendTid_resExc (s : State) : (spendTid s).resExc = s.resExc := rfl
@[simp] theorem spendTid_resOk (s : State) : (spendTid s).resOk = s.resOk := rfl
@[simp] theorem spendTid_resKind (s : State) : (spendTid s).resKind = s.resKind := rfl
@[simp] theorem spendTid_resCount (s : State) : (spendTid s).resCount = s.resCount := rfl
@[simp] theorem spendTid_resBits (s : State) : (spendTid s).resBits = s.resBits := rfl
@[simp] theorem spendTid_resWords (s : State) : (spendTid s).resWords = s.resWords := rfl
@[simp] theorem spendTid_txb (s : State) : (spendTid s).txb = s.txb := rfl
@[simp] theorem spendTid_rxb (s : State) : (spendTid s).rxb = s.rxb := rfl
@[simp] theorem spendTid_inputs (s : State) : (spendTid s).inputs = s.inputs := rfl
@[simp] theorem spendTid_convOut (s : State) : (spendTid s).convOut = s.convOut := rfl
@[simp] theorem spendTid_readOut (s : State) : (spendTid s).readOut = s.readOut := rfl

@[simp] theorem complete_tid (st : Status) (d : BitVec 4) (x : Byte) (k : ResKind) (n : Nat) (bs : List Bool) (ws : List Word) (s : State) : (complete st d x k n bs ws s).tid = s.tid := rfl
@[simp] theorem complete_phase (st : Status) (d : BitVec 4) (x : Byte) (k : ResKind) (n : Nat) (bs : List Bool) (ws : List Word) (s : State) : (complete st d x k n bs ws s).phase = .idle := rfl
@[simp] theorem complete_cfgUnit (st : Status) (d : BitVec 4) (x : Byte) (k : ResKind) (n : Nat) (bs : List Bool) (ws : List Word) (s : State) : (complete st d x k n bs ws s).cfgUnit = s.cfgUnit := rfl
@[simp] theorem complete_pendTid (st : Status) (d : BitVec 4) (x : Byte) (k : ResKind) (n : Nat) (bs : List Bool) (ws : List Word) (s : State) : (complete st d x k n bs ws s).pendTid = s.pendTid := rfl
@[simp] theorem complete_pendUnit (st : Status) (d : BitVec 4) (x : Byte) (k : ResKind) (n : Nat) (bs : List Bool) (ws : List Word) (s : State) : (complete st d x k n bs ws s).pendUnit = s.pendUnit := rfl
@[simp] theorem complete_pendFc (st : Status) (d : BitVec 4) (x : Byte) (k : ResKind) (n : Nat) (bs : List Bool) (ws : List Word) (s : State) : (complete st d x k n bs ws s).pendFc = s.pendFc := rfl
@[simp] theorem complete_pendAddr (st : Status) (d : BitVec 4) (x : Byte) (k : ResKind) (n : Nat) (bs : List Bool) (ws : List Word) (s : State) : (complete st d x k n bs ws s).pendAddr = s.pendAddr := rfl
@[simp] theorem complete_pendQv (st : Status) (d : BitVec 4) (x : Byte) (k : ResKind) (n : Nat) (bs : List Bool) (ws : List Word) (s : State) : (complete st d x k n bs ws s).pendQv = s.pendQv := rfl
@[simp] theorem complete_txLen (st : Status) (d : BitVec 4) (x : Byte) (k : ResKind) (n : Nat) (bs : List Bool) (ws : List Word) (s : State) : (complete st d x k n bs ws s).txLen = s.txLen := rfl
@[simp] theorem complete_rxExpect (st : Status) (d : BitVec 4) (x : Byte) (k : ResKind) (n : Nat) (bs : List Bool) (ws : List Word) (s : State) : (complete st d x k n bs ws s).rxExpect = s.rxExpect := rfl
@[simp] theorem complete_rxLen (st : Status) (d : BitVec 4) (x : Byte) (k : ResKind) (n : Nat) (bs : List Bool) (ws : List Word) (s : State) : (complete st d x k n bs ws s).rxLen = s.rxLen := rfl
@[simp] theorem complete_resValid (st : Status) (d : BitVec 4) (x : Byte) (k : ResKind) (n : Nat) (bs : List Bool) (ws : List Word) (s : State) : (complete st d x k n bs ws s).resValid = true := rfl
@[simp] theorem complete_resStatus (st : Status) (d : BitVec 4) (x : Byte) (k : ResKind) (n : Nat) (bs : List Bool) (ws : List Word) (s : State) : (complete st d x k n bs ws s).resStatus = st := rfl
@[simp] theorem complete_resDetail (st : Status) (d : BitVec 4) (x : Byte) (k : ResKind) (n : Nat) (bs : List Bool) (ws : List Word) (s : State) : (complete st d x k n bs ws s).resDetail = d := rfl
@[simp] theorem complete_resExc (st : Status) (d : BitVec 4) (x : Byte) (k : ResKind) (n : Nat) (bs : List Bool) (ws : List Word) (s : State) : (complete st d x k n bs ws s).resExc = x := rfl
@[simp] theorem complete_resOk (st : Status) (d : BitVec 4) (x : Byte) (k : ResKind) (n : Nat) (bs : List Bool) (ws : List Word) (s : State) : (complete st d x k n bs ws s).resOk = okFlag st := rfl
@[simp] theorem complete_resKind (st : Status) (d : BitVec 4) (x : Byte) (k : ResKind) (n : Nat) (bs : List Bool) (ws : List Word) (s : State) : (complete st d x k n bs ws s).resKind = k := rfl
@[simp] theorem complete_resCount (st : Status) (d : BitVec 4) (x : Byte) (k : ResKind) (n : Nat) (bs : List Bool) (ws : List Word) (s : State) : (complete st d x k n bs ws s).resCount = BitVec.ofNat 11 n := rfl
@[simp] theorem complete_resBits (st : Status) (d : BitVec 4) (x : Byte) (k : ResKind) (n : Nat) (bs : List Bool) (ws : List Word) (s : State) : (complete st d x k n bs ws s).resBits = bs := rfl
@[simp] theorem complete_resWords (st : Status) (d : BitVec 4) (x : Byte) (k : ResKind) (n : Nat) (bs : List Bool) (ws : List Word) (s : State) : (complete st d x k n bs ws s).resWords = ws := rfl
@[simp] theorem complete_txb (st : Status) (d : BitVec 4) (x : Byte) (k : ResKind) (n : Nat) (bs : List Bool) (ws : List Word) (s : State) : (complete st d x k n bs ws s).txb = s.txb := rfl
@[simp] theorem complete_rxb (st : Status) (d : BitVec 4) (x : Byte) (k : ResKind) (n : Nat) (bs : List Bool) (ws : List Word) (s : State) : (complete st d x k n bs ws s).rxb = s.rxb := rfl
@[simp] theorem complete_inputs (st : Status) (d : BitVec 4) (x : Byte) (k : ResKind) (n : Nat) (bs : List Bool) (ws : List Word) (s : State) : (complete st d x k n bs ws s).inputs = s.inputs := rfl
@[simp] theorem complete_convOut (st : Status) (d : BitVec 4) (x : Byte) (k : ResKind) (n : Nat) (bs : List Bool) (ws : List Word) (s : State) : (complete st d x k n bs ws s).convOut = s.convOut := rfl
@[simp] theorem complete_readOut (st : Status) (d : BitVec 4) (x : Byte) (k : ResKind) (n : Nat) (bs : List Bool) (ws : List Word) (s : State) : (complete st d x k n bs ws s).readOut = s.readOut := rfl

@[simp] theorem raise_tid (op : Byte) (e : Error) (s : State) : (raise op e s).tid = s.tid := rfl
@[simp] theorem raise_phase (op : Byte) (e : Error) (s : State) : (raise op e s).phase = .idle := rfl
@[simp] theorem raise_cfgUnit (op : Byte) (e : Error) (s : State) : (raise op e s).cfgUnit = s.cfgUnit := rfl
@[simp] theorem raise_pendTid (op : Byte) (e : Error) (s : State) : (raise op e s).pendTid = s.pendTid := rfl
@[simp] theorem raise_pendUnit (op : Byte) (e : Error) (s : State) : (raise op e s).pendUnit = s.pendUnit := rfl
@[simp] theorem raise_pendFc (op : Byte) (e : Error) (s : State) : (raise op e s).pendFc = s.pendFc := rfl
@[simp] theorem raise_pendAddr (op : Byte) (e : Error) (s : State) : (raise op e s).pendAddr = s.pendAddr := rfl
@[simp] theorem raise_pendQv (op : Byte) (e : Error) (s : State) : (raise op e s).pendQv = s.pendQv := rfl
@[simp] theorem raise_txLen (op : Byte) (e : Error) (s : State) : (raise op e s).txLen = s.txLen := rfl
@[simp] theorem raise_rxExpect (op : Byte) (e : Error) (s : State) : (raise op e s).rxExpect = s.rxExpect := rfl
@[simp] theorem raise_rxLen (op : Byte) (e : Error) (s : State) : (raise op e s).rxLen = s.rxLen := rfl
@[simp] theorem raise_resValid (op : Byte) (e : Error) (s : State) : (raise op e s).resValid = true := rfl
@[simp] theorem raise_resStatus (op : Byte) (e : Error) (s : State) : (raise op e s).resStatus = errorStatus e := rfl
@[simp] theorem raise_resDetail (op : Byte) (e : Error) (s : State) : (raise op e s).resDetail = errorDetail e := rfl
@[simp] theorem raise_resExc (op : Byte) (e : Error) (s : State) : (raise op e s).resExc = errorExc e := rfl
@[simp] theorem raise_resOk (op : Byte) (e : Error) (s : State) : (raise op e s).resOk = okFlag (errorStatus e) := rfl
@[simp] theorem raise_resKind (op : Byte) (e : Error) (s : State) : (raise op e s).resKind = kindOfOp op := rfl
@[simp] theorem raise_resCount (op : Byte) (e : Error) (s : State) : (raise op e s).resCount = 0 := rfl
@[simp] theorem raise_resBits (op : Byte) (e : Error) (s : State) : (raise op e s).resBits = [] := rfl
@[simp] theorem raise_resWords (op : Byte) (e : Error) (s : State) : (raise op e s).resWords = [] := rfl
@[simp] theorem raise_txb (op : Byte) (e : Error) (s : State) : (raise op e s).txb = s.txb := rfl
@[simp] theorem raise_rxb (op : Byte) (e : Error) (s : State) : (raise op e s).rxb = s.rxb := rfl
@[simp] theorem raise_inputs (op : Byte) (e : Error) (s : State) : (raise op e s).inputs = s.inputs := rfl
@[simp] theorem raise_convOut (op : Byte) (e : Error) (s : State) : (raise op e s).convOut = s.convOut := rfl
@[simp] theorem raise_readOut (op : Byte) (e : Error) (s : State) : (raise op e s).readOut = s.readOut := rfl

@[simp] theorem latchRequest_tid (op : Byte) (a : Word) (n : Nat) (f : List Byte) (m : Memory) (t : Word) (s : State) : (latchRequest op a n f m t s).tid = s.tid := rfl
@[simp] theorem latchRequest_phase (op : Byte) (a : Word) (n : Nat) (f : List Byte) (m : Memory) (t : Word) (s : State) : (latchRequest op a n f m t s).phase = .send := rfl
@[simp] theorem latchRequest_cfgUnit (op : Byte) (a : Word) (n : Nat) (f : List Byte) (m : Memory) (t : Word) (s : State) : (latchRequest op a n f m t s).cfgUnit = s.cfgUnit := rfl
@[simp] theorem latchRequest_pendTid (op : Byte) (a : Word) (n : Nat) (f : List Byte) (m : Memory) (t : Word) (s : State) : (latchRequest op a n f m t s).pendTid = t := rfl
@[simp] theorem latchRequest_pendUnit (op : Byte) (a : Word) (n : Nat) (f : List Byte) (m : Memory) (t : Word) (s : State) : (latchRequest op a n f m t s).pendUnit = s.cfgUnit := rfl
@[simp] theorem latchRequest_pendFc (op : Byte) (a : Word) (n : Nat) (f : List Byte) (m : Memory) (t : Word) (s : State) : (latchRequest op a n f m t s).pendFc = op := rfl
@[simp] theorem latchRequest_pendAddr (op : Byte) (a : Word) (n : Nat) (f : List Byte) (m : Memory) (t : Word) (s : State) : (latchRequest op a n f m t s).pendAddr = a := rfl
@[simp] theorem latchRequest_pendQv (op : Byte) (a : Word) (n : Nat) (f : List Byte) (m : Memory) (t : Word) (s : State) : (latchRequest op a n f m t s).pendQv = wordAt f 10 := rfl
@[simp] theorem latchRequest_txLen (op : Byte) (a : Word) (n : Nat) (f : List Byte) (m : Memory) (t : Word) (s : State) : (latchRequest op a n f m t s).txLen = BitVec.ofNat 9 f.length := rfl
@[simp] theorem latchRequest_rxExpect (op : Byte) (a : Word) (n : Nat) (f : List Byte) (m : Memory) (t : Word) (s : State) : (latchRequest op a n f m t s).rxExpect = BitVec.ofNat 9 n := rfl
@[simp] theorem latchRequest_rxLen (op : Byte) (a : Word) (n : Nat) (f : List Byte) (m : Memory) (t : Word) (s : State) : (latchRequest op a n f m t s).rxLen = s.rxLen := rfl
@[simp] theorem latchRequest_resValid (op : Byte) (a : Word) (n : Nat) (f : List Byte) (m : Memory) (t : Word) (s : State) : (latchRequest op a n f m t s).resValid = s.resValid := rfl
@[simp] theorem latchRequest_resStatus (op : Byte) (a : Word) (n : Nat) (f : List Byte) (m : Memory) (t : Word) (s : State) : (latchRequest op a n f m t s).resStatus = s.resStatus := rfl
@[simp] theorem latchRequest_resDetail (op : Byte) (a : Word) (n : Nat) (f : List Byte) (m : Memory) (t : Word) (s : State) : (latchRequest op a n f m t s).resDetail = s.resDetail := rfl
@[simp] theorem latchRequest_resExc (op : Byte) (a : Word) (n : Nat) (f : List Byte) (m : Memory) (t : Word) (s : State) : (latchRequest op a n f m t s).resExc = s.resExc := rfl
@[simp] theorem latchRequest_resOk (op : Byte) (a : Word) (n : Nat) (f : List Byte) (m : Memory) (t : Word) (s : State) : (latchRequest op a n f m t s).resOk = s.resOk := rfl
@[simp] theorem latchRequest_resKind (op : Byte) (a : Word) (n : Nat) (f : List Byte) (m : Memory) (t : Word) (s : State) : (latchRequest op a n f m t s).resKind = s.resKind := rfl
@[simp] theorem latchRequest_resCount (op : Byte) (a : Word) (n : Nat) (f : List Byte) (m : Memory) (t : Word) (s : State) : (latchRequest op a n f m t s).resCount = s.resCount := rfl
@[simp] theorem latchRequest_resBits (op : Byte) (a : Word) (n : Nat) (f : List Byte) (m : Memory) (t : Word) (s : State) : (latchRequest op a n f m t s).resBits = s.resBits := rfl
@[simp] theorem latchRequest_resWords (op : Byte) (a : Word) (n : Nat) (f : List Byte) (m : Memory) (t : Word) (s : State) : (latchRequest op a n f m t s).resWords = s.resWords := rfl
@[simp] theorem latchRequest_txb (op : Byte) (a : Word) (n : Nat) (f : List Byte) (m : Memory) (t : Word) (s : State) : (latchRequest op a n f m t s).txb = m := rfl
@[simp] theorem latchRequest_rxb (op : Byte) (a : Word) (n : Nat) (f : List Byte) (m : Memory) (t : Word) (s : State) : (latchRequest op a n f m t s).rxb = s.rxb := rfl
@[simp] theorem latchRequest_inputs (op : Byte) (a : Word) (n : Nat) (f : List Byte) (m : Memory) (t : Word) (s : State) : (latchRequest op a n f m t s).inputs = s.inputs := rfl
@[simp] theorem latchRequest_convOut (op : Byte) (a : Word) (n : Nat) (f : List Byte) (m : Memory) (t : Word) (s : State) : (latchRequest op a n f m t s).convOut = s.convOut := rfl
@[simp] theorem latchRequest_readOut (op : Byte) (a : Word) (n : Nat) (f : List Byte) (m : Memory) (t : Word) (s : State) : (latchRequest op a n f m t s).readOut = s.readOut := rfl

@[simp] theorem latchResponse_tid (raw : List Byte) (m : Memory) (s : State) : (latchResponse raw m s).tid = s.tid := rfl
@[simp] theorem latchResponse_phase (raw : List Byte) (m : Memory) (s : State) : (latchResponse raw m s).phase = s.phase := rfl
@[simp] theorem latchResponse_cfgUnit (raw : List Byte) (m : Memory) (s : State) : (latchResponse raw m s).cfgUnit = s.cfgUnit := rfl
@[simp] theorem latchResponse_pendTid (raw : List Byte) (m : Memory) (s : State) : (latchResponse raw m s).pendTid = s.pendTid := rfl
@[simp] theorem latchResponse_pendUnit (raw : List Byte) (m : Memory) (s : State) : (latchResponse raw m s).pendUnit = s.pendUnit := rfl
@[simp] theorem latchResponse_pendFc (raw : List Byte) (m : Memory) (s : State) : (latchResponse raw m s).pendFc = s.pendFc := rfl
@[simp] theorem latchResponse_pendAddr (raw : List Byte) (m : Memory) (s : State) : (latchResponse raw m s).pendAddr = s.pendAddr := rfl
@[simp] theorem latchResponse_pendQv (raw : List Byte) (m : Memory) (s : State) : (latchResponse raw m s).pendQv = s.pendQv := rfl
@[simp] theorem latchResponse_txLen (raw : List Byte) (m : Memory) (s : State) : (latchResponse raw m s).txLen = s.txLen := rfl
@[simp] theorem latchResponse_rxExpect (raw : List Byte) (m : Memory) (s : State) : (latchResponse raw m s).rxExpect = s.rxExpect := rfl
@[simp] theorem latchResponse_rxLen (raw : List Byte) (m : Memory) (s : State) : (latchResponse raw m s).rxLen = BitVec.ofNat 9 (min raw.length config.rxbSize) := rfl
@[simp] theorem latchResponse_resValid (raw : List Byte) (m : Memory) (s : State) : (latchResponse raw m s).resValid = s.resValid := rfl
@[simp] theorem latchResponse_resStatus (raw : List Byte) (m : Memory) (s : State) : (latchResponse raw m s).resStatus = s.resStatus := rfl
@[simp] theorem latchResponse_resDetail (raw : List Byte) (m : Memory) (s : State) : (latchResponse raw m s).resDetail = s.resDetail := rfl
@[simp] theorem latchResponse_resExc (raw : List Byte) (m : Memory) (s : State) : (latchResponse raw m s).resExc = s.resExc := rfl
@[simp] theorem latchResponse_resOk (raw : List Byte) (m : Memory) (s : State) : (latchResponse raw m s).resOk = s.resOk := rfl
@[simp] theorem latchResponse_resKind (raw : List Byte) (m : Memory) (s : State) : (latchResponse raw m s).resKind = s.resKind := rfl
@[simp] theorem latchResponse_resCount (raw : List Byte) (m : Memory) (s : State) : (latchResponse raw m s).resCount = s.resCount := rfl
@[simp] theorem latchResponse_resBits (raw : List Byte) (m : Memory) (s : State) : (latchResponse raw m s).resBits = s.resBits := rfl
@[simp] theorem latchResponse_resWords (raw : List Byte) (m : Memory) (s : State) : (latchResponse raw m s).resWords = s.resWords := rfl
@[simp] theorem latchResponse_txb (raw : List Byte) (m : Memory) (s : State) : (latchResponse raw m s).txb = s.txb := rfl
@[simp] theorem latchResponse_rxb (raw : List Byte) (m : Memory) (s : State) : (latchResponse raw m s).rxb = m := rfl
@[simp] theorem latchResponse_inputs (raw : List Byte) (m : Memory) (s : State) : (latchResponse raw m s).inputs = s.inputs := rfl
@[simp] theorem latchResponse_convOut (raw : List Byte) (m : Memory) (s : State) : (latchResponse raw m s).convOut = s.convOut := rfl
@[simp] theorem latchResponse_readOut (raw : List Byte) (m : Memory) (s : State) : (latchResponse raw m s).readOut = s.readOut := rfl

@[simp] theorem convShow_tid (o : ConvOut) (s : State) : (convShow o s).tid = s.tid := rfl
@[simp] theorem convShow_phase (o : ConvOut) (s : State) : (convShow o s).phase = s.phase := rfl
@[simp] theorem convShow_cfgUnit (o : ConvOut) (s : State) : (convShow o s).cfgUnit = s.cfgUnit := rfl
@[simp] theorem convShow_pendTid (o : ConvOut) (s : State) : (convShow o s).pendTid = s.pendTid := rfl
@[simp] theorem convShow_pendUnit (o : ConvOut) (s : State) : (convShow o s).pendUnit = s.pendUnit := rfl
@[simp] theorem convShow_pendFc (o : ConvOut) (s : State) : (convShow o s).pendFc = s.pendFc := rfl
@[simp] theorem convShow_pendAddr (o : ConvOut) (s : State) : (convShow o s).pendAddr = s.pendAddr := rfl
@[simp] theorem convShow_pendQv (o : ConvOut) (s : State) : (convShow o s).pendQv = s.pendQv := rfl
@[simp] theorem convShow_txLen (o : ConvOut) (s : State) : (convShow o s).txLen = s.txLen := rfl
@[simp] theorem convShow_rxExpect (o : ConvOut) (s : State) : (convShow o s).rxExpect = s.rxExpect := rfl
@[simp] theorem convShow_rxLen (o : ConvOut) (s : State) : (convShow o s).rxLen = s.rxLen := rfl
@[simp] theorem convShow_resValid (o : ConvOut) (s : State) : (convShow o s).resValid = s.resValid := rfl
@[simp] theorem convShow_resStatus (o : ConvOut) (s : State) : (convShow o s).resStatus = s.resStatus := rfl
@[simp] theorem convShow_resDetail (o : ConvOut) (s : State) : (convShow o s).resDetail = s.resDetail := rfl
@[simp] theorem convShow_resExc (o : ConvOut) (s : State) : (convShow o s).resExc = s.resExc := rfl
@[simp] theorem convShow_resOk (o : ConvOut) (s : State) : (convShow o s).resOk = s.resOk := rfl
@[simp] theorem convShow_resKind (o : ConvOut) (s : State) : (convShow o s).resKind = s.resKind := rfl
@[simp] theorem convShow_resCount (o : ConvOut) (s : State) : (convShow o s).resCount = s.resCount := rfl
@[simp] theorem convShow_resBits (o : ConvOut) (s : State) : (convShow o s).resBits = s.resBits := rfl
@[simp] theorem convShow_resWords (o : ConvOut) (s : State) : (convShow o s).resWords = s.resWords := rfl
@[simp] theorem convShow_txb (o : ConvOut) (s : State) : (convShow o s).txb = s.txb := rfl
@[simp] theorem convShow_rxb (o : ConvOut) (s : State) : (convShow o s).rxb = s.rxb := rfl
@[simp] theorem convShow_inputs (o : ConvOut) (s : State) : (convShow o s).inputs = s.inputs := rfl
@[simp] theorem convShow_convOut (o : ConvOut) (s : State) : (convShow o s).convOut = o := rfl
@[simp] theorem convShow_readOut (o : ConvOut) (s : State) : (convShow o s).readOut = s.readOut := rfl

@[simp] theorem setUnit_tid (u : Byte) (s : State) : (setUnit u s).tid = s.tid := rfl
@[simp] theorem setUnit_phase (u : Byte) (s : State) : (setUnit u s).phase = s.phase := rfl
@[simp] theorem setUnit_cfgUnit (u : Byte) (s : State) : (setUnit u s).cfgUnit = u := rfl
@[simp] theorem setUnit_pendTid (u : Byte) (s : State) : (setUnit u s).pendTid = s.pendTid := rfl
@[simp] theorem setUnit_pendUnit (u : Byte) (s : State) : (setUnit u s).pendUnit = s.pendUnit := rfl
@[simp] theorem setUnit_pendFc (u : Byte) (s : State) : (setUnit u s).pendFc = s.pendFc := rfl
@[simp] theorem setUnit_pendAddr (u : Byte) (s : State) : (setUnit u s).pendAddr = s.pendAddr := rfl
@[simp] theorem setUnit_pendQv (u : Byte) (s : State) : (setUnit u s).pendQv = s.pendQv := rfl
@[simp] theorem setUnit_txLen (u : Byte) (s : State) : (setUnit u s).txLen = s.txLen := rfl
@[simp] theorem setUnit_rxExpect (u : Byte) (s : State) : (setUnit u s).rxExpect = s.rxExpect := rfl
@[simp] theorem setUnit_rxLen (u : Byte) (s : State) : (setUnit u s).rxLen = s.rxLen := rfl
@[simp] theorem setUnit_resValid (u : Byte) (s : State) : (setUnit u s).resValid = s.resValid := rfl
@[simp] theorem setUnit_resStatus (u : Byte) (s : State) : (setUnit u s).resStatus = s.resStatus := rfl
@[simp] theorem setUnit_resDetail (u : Byte) (s : State) : (setUnit u s).resDetail = s.resDetail := rfl
@[simp] theorem setUnit_resExc (u : Byte) (s : State) : (setUnit u s).resExc = s.resExc := rfl
@[simp] theorem setUnit_resOk (u : Byte) (s : State) : (setUnit u s).resOk = s.resOk := rfl
@[simp] theorem setUnit_resKind (u : Byte) (s : State) : (setUnit u s).resKind = s.resKind := rfl
@[simp] theorem setUnit_resCount (u : Byte) (s : State) : (setUnit u s).resCount = s.resCount := rfl
@[simp] theorem setUnit_resBits (u : Byte) (s : State) : (setUnit u s).resBits = s.resBits := rfl
@[simp] theorem setUnit_resWords (u : Byte) (s : State) : (setUnit u s).resWords = s.resWords := rfl
@[simp] theorem setUnit_txb (u : Byte) (s : State) : (setUnit u s).txb = s.txb := rfl
@[simp] theorem setUnit_rxb (u : Byte) (s : State) : (setUnit u s).rxb = s.rxb := rfl
@[simp] theorem setUnit_inputs (u : Byte) (s : State) : (setUnit u s).inputs = s.inputs := rfl
@[simp] theorem setUnit_convOut (u : Byte) (s : State) : (setUnit u s).convOut = s.convOut := rfl
@[simp] theorem setUnit_readOut (u : Byte) (s : State) : (setUnit u s).readOut = s.readOut := rfl

@[simp] theorem reset_tid : State.reset.tid = 0 := rfl
@[simp] theorem reset_phase : State.reset.phase = .idle := rfl
@[simp] theorem reset_cfgUnit : State.reset.cfgUnit = 1 := rfl
@[simp] theorem reset_resValid : State.reset.resValid = false := rfl
@[simp] theorem reset_inputs : State.reset.inputs = [] := rfl
@[simp] theorem reset_txb : State.reset.txb = [] := rfl
@[simp] theorem reset_rxb : State.reset.rxb = [] := rfl
@[simp] theorem reset_resBits : State.reset.resBits = [] := rfl
@[simp] theorem reset_resWords : State.reset.resWords = [] := rfl

@[simp] theorem resetBlock_tid (s : State) : (resetBlock s).tid = 0 := rfl
@[simp] theorem resetBlock_phase (s : State) : (resetBlock s).phase = .idle := rfl
@[simp] theorem resetBlock_cfgUnit (s : State) : (resetBlock s).cfgUnit = 1 := rfl
@[simp] theorem resetBlock_resValid (s : State) : (resetBlock s).resValid = false := rfl
@[simp] theorem resetBlock_inputs (s : State) : (resetBlock s).inputs = s.inputs := rfl
@[simp] theorem resetBlock_txb (s : State) : (resetBlock s).txb = [] := rfl
@[simp] theorem resetBlock_rxb (s : State) : (resetBlock s).rxb = [] := rfl
@[simp] theorem resetBlock_resBits (s : State) : (resetBlock s).resBits = [] := rfl
@[simp] theorem resetBlock_resWords (s : State) : (resetBlock s).resWords = [] := rfl

end Sys2Proof.Machine
end

