-- ==== Sys2Proof/Laws/Ops.lean ====
section
/-! SUPPORT. Once for each shared operation, everything it can do. -/

namespace Sys2Proof.Machine

/-- The CMD step (R232, R249): not enabled, refused by `ENC`, or accepted. -/
theorem command_cases {op : Byte} {addr : Word} {n : Nat} {r : Except EncDetail (List Byte)}
    {s t : State} (h : command op addr n r s = .next t) :
    (s.phase ≠ .idle ∧ t = s) ∨
    (s.phase = .idle ∧ ∃ d, r = .error d ∧ t = raise op (.encoding d) (spendTid s)) ∨
    (s.phase = .idle ∧ ∃ frame, r = .ok frame ∧ frame.length ≤ 263 ∧
      t = latchRequest op addr n frame (s.txb.writeAll 0 frame) s.tid (spendTid s)) := by
  unfold command at h
  split at h
  · rename_i hp
    split at h
    · exact .inr (.inl ⟨hp, _, rfl, by injection h with h; exact h.symm⟩)
    · split at h
      · cases h
      · rename_i frame _ m hm
        obtain ⟨hl, rfl⟩ := Memory.store_eq_ok.1 hm
        refine .inr (.inr ⟨hp, frame, rfl, ?_, by injection h with h; exact h.symm⟩)
        simpa [config] using hl
  · exact .inl ⟨‹_›, by injection h with h; exact h.symm⟩

/-- The CMD step in IDLE on a frame that fits TXB (R232). -/
theorem command_accepts (op : Byte) (addr : Word) (n : Nat) {frame : List Byte} {s : State}
    (hp : s.phase = .idle) (hl : frame.length ≤ 263) :
    command op addr n (.ok frame) s =
      .next (latchRequest op addr n frame (s.txb.writeAll 0 frame) s.tid (spendTid s)) := by
  simp only [command, if_pos hp]
  rw [Memory.store_of_le _ (show 0 + frame.length ≤ config.txbSize by simpa using hl)]

/-- The CMD step in IDLE on a command that `ENC` refuses (R232, R280). -/
theorem command_refuses (op : Byte) (addr : Word) (n : Nat) (d : EncDetail) {s : State}
    (hp : s.phase = .idle) :
    command op addr n (.error d) s = .next (raise op (.encoding d) (spendTid s)) := by
  simp only [command, if_pos hp]

/-- The CMD step outside IDLE (R249). -/
theorem command_busy (op : Byte) (addr : Word) (n : Nat) (r : Except EncDetail (List Byte)) {s : State}
    (hp : s.phase ≠ .idle) : command op addr n r s = .next s := by
  simp only [command, if_neg hp]

/-- The CMD step answers a next state whenever what `ENC` answers fits the buffer. -/
theorem command_next (op : Byte) (addr : Word) (n : Nat) (r : Except EncDetail (List Byte)) (s : State)
    (h : ∀ frame, r = .ok frame → frame.length ≤ 263) : ∃ t, command op addr n r s = .next t := by
  unfold command
  split
  · split
    · exact ⟨_, rfl⟩
    · rename_i frame
      have hl : 0 + frame.length ≤ config.txbSize := by simpa [config] using h frame rfl
      rw [Memory.store_of_le _ hl]
      exact ⟨_, rfl⟩
  · exact ⟨_, rfl⟩

/-- The RX_FRAME step (R234, R279): it always answers a next state. -/
theorem receive_eq (raw : List Byte) (r : Except ProtoDetail DecResult) (s : State) :
    receive raw r s =
      if s.phase = .await then
        .next (finish r (latchResponse raw (s.rxb.writeAll 0 (raw.take 259)) s))
      else .next s := by
  unfold receive
  split
  · rw [Memory.store_of_le _ (show 0 + (raw.take config.rxbSize).length ≤ config.rxbSize by simp)]
    rfl
  · rfl

/-- A completion after RX_FRAME is a success with the data of `DEC` or a failure with its detail. -/
theorem finish_cases (r : Except ProtoDetail DecResult) (s : State) :
    (∃ d, r = .ok d ∧ finish r s = completeOk d s) ∨
    (∃ e, r = .error e ∧ finish r s = raise s.pendFc (.protocol e) s) := by
  cases r with
  | ok d => exact .inl ⟨d, rfl, rfl⟩
  | error e => exact .inr ⟨e, rfl, rfl⟩

/-- Every completion is one `complete` with a data list of the counted length (R33). -/
theorem completeOk_cases (d : DecResult) (s : State) :
    (∃ l, d = .bits l ∧ completeOk d s = complete .ok 0 0 .bits l.length l [] s) ∨
    (∃ l, d = .words l ∧ completeOk d s = complete .ok 0 0 .words l.length [] l s) ∨
    (d = .done ∧ completeOk d s = complete .ok 0 0 .flag 0 [] [] s) := by
  cases d with
  | bits l => exact .inl ⟨l, rfl, rfl⟩
  | words l => exact .inr (.inl ⟨l, rfl, rfl⟩)
  | done => exact .inr (.inr ⟨rfl, rfl⟩)

/-- What `DEC` can answer with data (R169 to R172, R180): exactly `p.qv` elements, and the frame holds the
bytes they come from. -/
theorem decWith_ok {body : Pending → List Byte → Except ProtoDetail DecResult} {p : Pending}
    {raw : List Byte} {d : DecResult} (h : decWith body p raw = .ok d) :
    headerError p raw = none ∧ byteAt raw 7 = p.fc ∧ body p raw = .ok d := by
  unfold decWith at h
  split at h
  · cases h
  · split at h
    · cases h
    · split at h
      · cases h
      · exact ⟨‹_›, by simpa using ‹¬byteAt raw 7 ≠ p.fc›, h⟩

/-- `RSP_BITS` answers its items or BodyMalformed (R169). -/
theorem bodyBits_cases (p : Pending) (raw : List Byte) :
    (readBodyFits (bitsByteCount p.qv) raw = true ∧
      bodyBits p raw = .ok (.bits (unpackBits p.qv.toNat (raw.drop 9)))) ∨
    (readBodyFits (bitsByteCount p.qv) raw = false ∧ bodyBits p raw = .error .bodyMalformed) := by
  unfold bodyBits; split <;> simp_all

/-- `RSP_REGS` answers its words or BodyMalformed (R171). -/
theorem bodyRegs_cases (p : Pending) (raw : List Byte) :
    (readBodyFits (regsByteCount p.qv) raw = true ∧
      bodyRegs p raw = .ok (.words (unpackWords p.qv.toNat (raw.drop 9)))) ∨
    (readBodyFits (regsByteCount p.qv) raw = false ∧ bodyRegs p raw = .error .bodyMalformed) := by
  unfold bodyRegs; split <;> simp_all

theorem qty_eq_zero {qty : Word} : qty = 0 ↔ qty.toNat = 0 := by
  constructor
  · rintro rfl; rfl
  · intro h; exact BitVec.eq_of_toNat_eq (by simpa using h)

/-- The quantity checks (R131): zero first, then the maximum, then whatever the operation answers. -/
theorem checkQuantity_eq (max : Nat) (qty : Word) (r : Except EncDetail (List Byte)) :
    checkQuantity max qty r =
      if qty.toNat = 0 then .error .quantityZero
      else if max < qty.toNat then .error .quantityTooLarge else r := by
  simp only [checkQuantity, qty_eq_zero]

/-- The quantity checks pass exactly for 1 to the maximum (R131). -/
theorem checkQuantity_ok {max : Nat} {qty : Word} {r : Except EncDetail (List Byte)} {frame : List Byte} :
    checkQuantity max qty r = .ok frame ↔ 1 ≤ qty.toNat ∧ qty.toNat ≤ max ∧ r = .ok frame := by
  rw [checkQuantity_eq]
  split
  · simp only [reduceCtorEq, false_iff]; omega
  · split
    · simp only [reduceCtorEq, false_iff]; omega
    · constructor
      · intro h; exact ⟨by omega, by omega, h⟩
      · exact fun h => h.2.2

/-- What the ports give next: an event whose step need not wait, the others keeping their order (R230). -/
theorem takeInput_some {p : Phase} {l rest : List Input} {x : Input} (h : takeInput p l = some (x, rest)) :
    mustWait p x = false ∧ ∃ front back,
      l = front ++ x :: back ∧ rest = front ++ back ∧ ∀ y ∈ front, mustWait p y = true := by
  induction l generalizing rest with
  | nil => cases h
  | cons y l ih =>
    unfold takeInput at h
    split at h
    · cases h' : takeInput p l with
      | none => rw [h'] at h; cases h
      | some z =>
        obtain ⟨z1, z2⟩ := z
        rw [h'] at h
        simp only [Option.map_some, Option.some.injEq, Prod.mk.injEq] at h
        obtain ⟨rfl, rfl⟩ := h
        obtain ⟨hw, front, back, rfl, rfl, hf⟩ := ih h'
        exact ⟨hw, y :: front, back, rfl, rfl, by simpa using ⟨‹_›, hf⟩⟩
    · simp only [Option.some.injEq, Prod.mk.injEq] at h
      obtain ⟨rfl, rfl⟩ := h
      exact ⟨by simpa using ‹¬mustWait p y = true›, [], l, rfl, rfl, by simp⟩

/-- `PEND_*`, `TX_LEN` and `RX_EXPECT` hold a value in SEND and AWAIT and nowhere else (R37). -/
theorem inFlight_iff {s : State} : inFlight s = true ↔ s.phase = .send ∨ s.phase = .await := by
  simp [inFlight]

end Sys2Proof.Machine
end

