-- ==== Sys2Proof/Laws/PerInstr.lean ====
section
/-! SUPPORT. Families of statements about every instruction as syntax, one lemma per constructor. -/

namespace Sys2Proof.Laws

open Sys2Proof.Machine

/-- The first eight bytes under the mask of a format whose `length` varies: the function code alone (R107). -/
theorem first8_variable (b0 b1 b4 b5 b6 f : Byte) :
    (be16 b0 b1 ++ (0 : Word) ++ be16 b4 b5 ++ be16 b6 f : BitVec 64) &&& variableMask = f.setWidth 64 := by
  apply BitVec.eq_of_getLsbD_eq
  intro i hi
  simp only [BitVec.getLsbD_and, BitVec.getLsbD_append, be16, variableMask, BitVec.getLsbD_setWidth]
  interval_cases i <;> simp

/-- The first eight bytes under the mask of a format with one size: `length` 6 and the function code (R107). -/
theorem first8_fixed (b0 b1 b6 f : Byte) :
    (be16 b0 b1 ++ (0 : Word) ++ (6 : Word) ++ be16 b6 f : BitVec 64) &&& fixedMask =
      f.setWidth 64 ||| 0x60000 := by
  apply BitVec.eq_of_getLsbD_eq
  intro i hi
  simp only [BitVec.getLsbD_and, BitVec.getLsbD_append, be16, fixedMask, BitVec.getLsbD_setWidth,
    BitVec.getLsbD_or]
  interval_cases i <;> simp

/-- The first eight bytes of a frame written out, its protocol identifier 0 (R91). -/
theorem first8_cons (b0 b1 b4 b5 b6 f : Byte) (rest : List Byte) :
    first8 (b0 :: b1 :: 0#8 :: 0#8 :: b4 :: b5 :: b6 :: f :: rest) =
      be16 b0 b1 ++ (0 : Word) ++ be16 b4 b5 ++ be16 b6 f := by
  simp only [first8, byteAt_cons_zero, byteAt_cons_succ]
  rfl

/-- A fixed-size request under its mask (R93, R107). -/
theorem reqFixed_masked (t : Word) (u f : Byte) (a v : Word) :
    first8 (reqFixed config t u f a v) &&& fixedMask = f.setWidth 64 ||| 0x60000 := by
  simp only [reqFixed, header, config_protocolId, hi_zero, lo_zero, List.cons_append, first8_cons]
  rw [be16_hi_lo (BitVec.ofNat 16 6)]
  exact first8_fixed _ _ _ _

/-- A multiple write's header under its mask (R94, R95, R107). -/
theorem header_masked (t : Word) (u : Byte) (len : Nat) (f : Byte) (a : Word) (rest : List Byte) :
    first8 (header config t u len f a ++ rest) &&& variableMask = f.setWidth 64 := by
  simp only [header, config_protocolId, hi_zero, lo_zero, List.cons_append, first8_cons]
  exact first8_variable _ _ _ _ _ _

/-- A response frame under the variable mask (R96, R99, R101, R107). -/
theorem rspFrame_masked (f : Byte) (r : RspFrame) :
    first8 (rspFrame f r) &&& variableMask = f.setWidth 64 := by
  simp only [rspFrame, config_protocolId, hi_zero, lo_zero, List.cons_append, first8_cons]
  exact first8_variable _ _ _ _ _ _

/-- A write echo of `length` 6 under its mask (R100, R107). -/
theorem rspFrame_echo_masked (f : Byte) (r : RspFrame) (h : r.length = 6) :
    first8 (rspFrame f r) &&& fixedMask = f.setWidth 64 ||| 0x60000 := by
  simp only [rspFrame, config_protocolId, hi_zero, lo_zero, List.cons_append, first8_cons]
  rw [be16_hi_lo r.length, h]
  exact first8_fixed _ _ _ _

/-- An instruction's encoding matches its own row of spec/opcode_table.json; a conversion has no frame, and
its `conv_op` selects it (R107, R114). -/
def RowMatches.Statement (i : Instr) : Prop :=
  ∀ (t : Word) (u : Byte), i.wellFormed = true →
    match encode t u i, tableRow i with
    | .request frame, some row => row.matchesFrame frame = true
    | .response raw, some row => row.matchesFrame raw = true
    | .conv p, none => decodeConv p = .ok i
    | _, _ => False

theorem RowMatches.readCoils (addr qty : Word) : RowMatches.Statement (.readCoils addr qty) := by
  intro t u _
  exact decide_eq_true (reqFixed_masked t u 0x01 addr qty)

theorem RowMatches.readDiscreteInputs (addr qty : Word) :
    RowMatches.Statement (.readDiscreteInputs addr qty) := by
  intro t u _
  exact decide_eq_true (reqFixed_masked t u 0x02 addr qty)

theorem RowMatches.readHoldingRegisters (addr qty : Word) :
    RowMatches.Statement (.readHoldingRegisters addr qty) := by
  intro t u _
  exact decide_eq_true (reqFixed_masked t u 0x03 addr qty)

theorem RowMatches.readInputRegisters (addr qty : Word) :
    RowMatches.Statement (.readInputRegisters addr qty) := by
  intro t u _
  exact decide_eq_true (reqFixed_masked t u 0x04 addr qty)

theorem RowMatches.writeSingleCoil (addr : Word) (coil : Bool) :
    RowMatches.Statement (.writeSingleCoil addr coil) := by
  intro t u _
  exact decide_eq_true (reqFixed_masked t u 0x05 addr (coilValue coil))

theorem RowMatches.writeSingleRegister (addr value : Word) :
    RowMatches.Statement (.writeSingleRegister addr value) := by
  intro t u _
  exact decide_eq_true (reqFixed_masked t u 0x06 addr value)

theorem RowMatches.writeMultipleCoils (addr qty : Word) (bits : List Bool) :
    RowMatches.Statement (.writeMultipleCoils addr qty bits) := by
  intro t u _
  simp only [encode, tableRow, reqMCoils, List.append_assoc]
  exact decide_eq_true (header_masked _ _ _ _ _ _)

theorem RowMatches.writeMultipleRegisters (addr qty : Word) (words : List Word) :
    RowMatches.Statement (.writeMultipleRegisters addr qty words) := by
  intro t u _
  simp only [encode, tableRow, reqMRegs, List.append_assoc]
  exact decide_eq_true (header_masked _ _ _ _ _ _)

theorem RowMatches.readCoilsRsp (r : RspFrame) : RowMatches.Statement (.readCoilsRsp r) := by
  intro t u _
  exact decide_eq_true (rspFrame_masked 0x01 r)

theorem RowMatches.readDiscreteInputsRsp (r : RspFrame) : RowMatches.Statement (.readDiscreteInputsRsp r) := by
  intro t u _
  exact decide_eq_true (rspFrame_masked 0x02 r)

theorem RowMatches.readHoldingRegistersRsp (r : RspFrame) : RowMatches.Statement (.readHoldingRegistersRsp r) := by
  intro t u _
  exact decide_eq_true (rspFrame_masked 0x03 r)

theorem RowMatches.readInputRegistersRsp (r : RspFrame) : RowMatches.Statement (.readInputRegistersRsp r) := by
  intro t u _
  exact decide_eq_true (rspFrame_masked 0x04 r)

theorem RowMatches.writeSingleCoilRsp (r : RspFrame) : RowMatches.Statement (.writeSingleCoilRsp r) := by
  intro t u h
  exact decide_eq_true (rspFrame_echo_masked 0x05 r (of_decide_eq_true h))

theorem RowMatches.writeSingleRegisterRsp (r : RspFrame) : RowMatches.Statement (.writeSingleRegisterRsp r) := by
  intro t u h
  exact decide_eq_true (rspFrame_echo_masked 0x06 r (of_decide_eq_true h))

theorem RowMatches.writeMultipleCoilsRsp (r : RspFrame) : RowMatches.Statement (.writeMultipleCoilsRsp r) := by
  intro t u h
  exact decide_eq_true (rspFrame_echo_masked 0x0F r (of_decide_eq_true h))

theorem RowMatches.writeMultipleRegistersRsp (r : RspFrame) : RowMatches.Statement (.writeMultipleRegistersRsp r) := by
  intro t u h
  exact decide_eq_true (rspFrame_echo_masked 0x10 r (of_decide_eq_true h))

theorem RowMatches.readCoilsExc (r : RspFrame) : RowMatches.Statement (.readCoilsExc r) := by
  intro t u _
  exact decide_eq_true (rspFrame_masked 0x81 r)

theorem RowMatches.readDiscreteInputsExc (r : RspFrame) : RowMatches.Statement (.readDiscreteInputsExc r) := by
  intro t u _
  exact decide_eq_true (rspFrame_masked 0x82 r)

theorem RowMatches.readHoldingRegistersExc (r : RspFrame) : RowMatches.Statement (.readHoldingRegistersExc r) := by
  intro t u _
  exact decide_eq_true (rspFrame_masked 0x83 r)

theorem RowMatches.readInputRegistersExc (r : RspFrame) : RowMatches.Statement (.readInputRegistersExc r) := by
  intro t u _
  exact decide_eq_true (rspFrame_masked 0x84 r)

theorem RowMatches.writeSingleCoilExc (r : RspFrame) : RowMatches.Statement (.writeSingleCoilExc r) := by
  intro t u _
  exact decide_eq_true (rspFrame_masked 0x85 r)

theorem RowMatches.writeSingleRegisterExc (r : RspFrame) : RowMatches.Statement (.writeSingleRegisterExc r) := by
  intro t u _
  exact decide_eq_true (rspFrame_masked 0x86 r)

theorem RowMatches.writeMultipleCoilsExc (r : RspFrame) : RowMatches.Statement (.writeMultipleCoilsExc r) := by
  intro t u _
  exact decide_eq_true (rspFrame_masked 0x8F r)

theorem RowMatches.writeMultipleRegistersExc (r : RspFrame) : RowMatches.Statement (.writeMultipleRegistersExc r) := by
  intro t u _
  exact decide_eq_true (rspFrame_masked 0x90 r)

theorem RowMatches.r2fLH (words : List Word) : RowMatches.Statement (.r2fLH words) := fun _ _ _ => rfl

theorem RowMatches.r2fHL (words : List Word) : RowMatches.Statement (.r2fHL words) := fun _ _ _ => rfl

theorem RowMatches.s16 (word : Word) : RowMatches.Statement (.s16 word) := fun _ _ _ => rfl

end Sys2Proof.Laws
end

