-- ==== Sys2Proof/Laws/Step.lean ====
section
/-! SUPPORT. The step and the ports: what taking an event comes to, in the terms of Safety.lean. -/

namespace Sys2Proof.Machine

/-- An event that need not wait, at the head of the ports, is the one taken (R230). -/
theorem takeInput_head {p : Phase} {x : Input} (rest : List Input) (h : mustWait p x = false) :
    takeInput p (x :: rest) = some (x, rest) := by
  simp [takeInput, h]

/-- A command that has to wait stays at the head (R249). -/
theorem takeInput_waiting {p : Phase} (hp : p ≠ .idle) (c : Command) (rest : List Input) :
    takeInput p (.cmd c :: rest) = (takeInput p rest).map fun y => (y.1, .cmd c :: y.2) := by
  simp [takeInput, mustWait, hp]

/-- The step on an event that need not wait, at the head of the ports. -/
theorem step_head {s : State} {x : Input} {rest : List Input} (hi : s.inputs = x :: rest)
    (h : mustWait s.phase x = false) : step s = accept x { s with inputs := rest } := by
  simp [step, stepPorts, hi, takeInput_head rest h]

/-- A step that answers a next state took nothing, or took one event that need not wait. -/
theorem step_next {s t : State} (h : step s = .next t) :
    (takeInput s.phase s.inputs = none ∧ t = s) ∨
    ∃ x rest, takeInput s.phase s.inputs = some (x, rest) ∧ accept x { s with inputs := rest } = .next t := by
  unfold step stepPorts at h
  split at h
  · exact .inl ⟨‹_›, by injection h with h; exact h.symm⟩
  · exact .inr ⟨_, _, ‹_›, h⟩

/-- The CMD step's success, written out. -/
theorem latchRequest_eq_accepted (op : Byte) (addr : Word) (n : Nat) (frame : List Byte) (s : State) :
    latchRequest op addr n frame (s.txb.writeAll 0 frame) s.tid (spendTid s) =
      accepted s op addr (wordAt frame 10) n frame := rfl

/-- A failed completion, written out (R280). -/
theorem raise_eq_failed (op : Byte) (e : Error) (s : State) :
    raise op e s = failed s (errorStatus e) (errorDetail e) (errorExc e) (kindOfOp op) := by
  cases e <;> rfl

/-- A command that `ENC` refuses, written out (R223). -/
theorem raise_spendTid (op : Byte) (d : EncDetail) (s : State) :
    raise op (.encoding d) (spendTid s) = encodingFailed s (encCode d) (kindOfOp op) := rfl

/-- What RX_FRAME stores, written out (R234). -/
theorem latchResponse_eq_received (raw : List Byte) (s : State) :
    latchResponse raw (s.rxb.writeAll 0 (raw.take 259)) s = received s raw := rfl

/-- The body of REQ_MREGS as the payload of R105. -/
theorem packWords_eq_flatMap (ws : List Word) : packWords ws = ws.flatMap fun w => [hi w, lo w] := by
  induction ws with
  | nil => rfl
  | cons w ws ih => simp [packWords, ih]

/-- Every request instruction is the CMD step of its command record (R232, R240 to R247). -/
theorem exec_request {i : Instr} {c : Command} (h : encodeCommand i = some c) (s : State) :
    exec i s = command c.op c.addr (expectOf c) (enc config s.tid s.cfgUnit c) s := by
  cases i <;> simp only [encodeCommand, Option.some.injEq, reduceCtorEq] at h <;> subst h <;> rfl

/-- At the command port every command, reserved `op` or not, is the CMD step with `ENC` of its record (R143,
R232). -/
theorem acceptCommand_eq (c : Command) (s : State) :
    acceptCommand c s = command c.op c.addr (expectOf c) (enc config s.tid s.cfgUnit c) s := by
  obtain ⟨op, addr, qty, coil, value, bits, words⟩ := c
  rcases hf : FunctionCode.ofByte? op with _ | fc
  · have h : ∀ fc : FunctionCode, op ≠ fc.toByte := by
      rintro fc rfl
      simp at hf
    have h1 := h .readCoils
    have h2 := h .readDiscreteInputs
    have h3 := h .readHoldingRegisters
    have h4 := h .readInputRegisters
    simp only [FunctionCode.toByte] at h1 h2 h3 h4
    simp only [acceptCommand, decodeCommand, hf, enc, expectOf, h1, h2, h3, h4, or_self, if_false]
    rfl
  · have ho := toByte_of_ofByte? hf
    cases fc <;> simp only [FunctionCode.toByte] at ho <;> subst ho <;> rfl

/-- Every response instruction is the RX_FRAME step on its frame, with the body rule of its row (R234). -/
theorem exec_response {i : Instr} {t : Word} {u : Byte} {raw : List Byte} (h : encode t u i = .response raw)
    (s : State) : ∃ body, exec i s = receive raw (decWith body (pendingOf s) raw) s := by
  cases i <;> simp only [encode, Encoded.response.injEq, reduceCtorEq] at h <;> subst h <;> exact ⟨_, rfl⟩

/-- Every conversion writes the port's output and nothing else (R254). -/
theorem exec_conv {i : Instr} {t : Word} {u : Byte} {p : ConvInput} (h : encode t u i = .conv p) (s : State) :
    ∃ out, exec i s = .next { s with convOut := out } := by
  cases i <;> simp only [encode, reduceCtorEq] at h <;> exact ⟨_, rfl⟩

/-- The fields of a response frame come back (R91). -/
theorem rspFields_rspFrame (f : Byte) (r : RspFrame) : rspFields (rspFrame f r) = r := by
  simp [rspFields, rspFrame, wordAt, be16_hi_lo]

/-- What `ENC` answers with a frame (R132 to R139): the operation, its quantity in range, its format. -/
theorem enc_ok {k : Config} {t : Word} {u : Byte} {c : Command} {frame : List Byte}
    (h : enc k t u c = .ok frame) :
    ((c.op = 0x01 ∨ c.op = 0x02) ∧ 1 ≤ c.qty.toNat ∧ c.qty.toNat ≤ k.maxRdBits ∧
      frame = reqFixed k t u c.op c.addr c.qty) ∨
    ((c.op = 0x03 ∨ c.op = 0x04) ∧ 1 ≤ c.qty.toNat ∧ c.qty.toNat ≤ k.maxRdRegs ∧
      frame = reqFixed k t u c.op c.addr c.qty) ∨
    (c.op = 0x05 ∧ frame = reqFixed k t u c.op c.addr (coilValue c.coil)) ∨
    (c.op = 0x06 ∧ frame = reqFixed k t u c.op c.addr c.value) ∨
    (c.op = 0x0F ∧ 1 ≤ c.qty.toNat ∧ c.qty.toNat ≤ k.maxWrBits ∧ c.bits.length = c.qty.toNat ∧
      frame = reqMCoils k t u c.addr c.qty c.bits) ∨
    (c.op = 0x10 ∧ 1 ≤ c.qty.toNat ∧ c.qty.toNat ≤ k.maxWrRegs ∧ c.words.length = c.qty.toNat ∧
      frame = reqMRegs k t u c.addr c.qty c.words) := by
  obtain ⟨op, addr, qty, coil, value, bits, words⟩ := c
  unfold enc at h
  split at h
  · cases h
  all_goals
    rename_i ho
    have ho := toByte_of_ofByte? ho
    simp only [FunctionCode.toByte] at ho
    subst ho
    simp only [encReadCoils, encReadDiscreteInputs, encReadHoldingRegisters, encReadInputRegisters,
      encWriteSingleCoil, encWriteSingleRegister, encWriteMultipleCoils, encWriteMultipleRegisters,
      checkQuantity_ok, Except.ok.injEq] at h
  · exact .inl ⟨.inl rfl, h.1, h.2.1, h.2.2.symm⟩
  · exact .inl ⟨.inr rfl, h.1, h.2.1, h.2.2.symm⟩
  · exact .inr (.inl ⟨.inl rfl, h.1, h.2.1, h.2.2.symm⟩)
  · exact .inr (.inl ⟨.inr rfl, h.1, h.2.1, h.2.2.symm⟩)
  · exact .inr (.inr (.inl ⟨rfl, h.symm⟩))
  · exact .inr (.inr (.inr (.inl ⟨rfl, h.symm⟩)))
  · obtain ⟨h1, h2, h3⟩ := h
    split at h3
    · cases h3
    · exact .inr (.inr (.inr (.inr (.inl ⟨rfl, h1, h2, Decidable.not_not.1 ‹_›, (Except.ok.inj h3).symm⟩))))
  · obtain ⟨h1, h2, h3⟩ := h
    split at h3
    · cases h3
    · exact .inr (.inr (.inr (.inr (.inr ⟨rfl, h1, h2, Decidable.not_not.1 ‹_›, (Except.ok.inj h3).symm⟩))))

end Sys2Proof.Machine
end

