-- ==== Sys2Proof/Tests/Slice0.lean ====
section
/-! SUPPORT. Tests against the vectors of 95_test_vectors.md and the rules' own examples, and for each statement with
hypotheses a concrete case that meets them. -/

namespace Sys2Proof.Tests

open Sys2Proof.Machine

/-! ## Helpers -/

/-- The state after one step, if there is one. -/
def after (s : State) : Option State :=
  match step s with
  | .next t => some t
  | .fault _ => none
  | .refused _ => none

/-- IDLE with this identifier, unit 1, these inputs. -/
def idleAt (tid : Word) (inputs : List Input) : State := { State.reset with tid := tid, inputs := inputs }

/-- AWAIT under this pending record, with these inputs. -/
def awaiting (p : Pending) (inputs : List Input) : State :=
  { State.reset with
    phase := .await, tid := p.tid + 1, pendTid := p.tid, pendUnit := p.unit, pendFc := p.fc,
    pendAddr := p.addr, pendQv := p.qv, inputs := inputs }

/-- The pending records of part 2.3 of the vectors. -/
def pa : Pending := ⟨0x0000, 0x01, 0x03, 0x0000, 1⟩
def pb : Pending := ⟨0x1234, 0x11, 0x01, 0x0013, 19⟩
def pc : Pending := ⟨0x0005, 0x01, 0x02, 0x0000, 3⟩
def pd : Pending := ⟨0xFFFF, 0x01, 0x04, 0x0008, 2⟩
def pw : Pending := ⟨0x0002, 0x01, 0x05, 0x00AC, 0xFF00⟩
def pr : Pending := ⟨0x0004, 0x01, 0x06, 0x0001, 0x0003⟩
def pm : Pending := ⟨0x0006, 0x01, 0x0F, 0x0013, 3⟩
def pn : Pending := ⟨0x0008, 0x01, 0x10, 0x0001, 2⟩

/-- The state after vector T1: a register read presented, identifier 7. -/
def sendT1 (inputs : List Input) : State :=
  { State.reset with
    phase := .send, tid := 8, pendTid := 7, pendUnit := 1, pendFc := 3, pendAddr := 0, pendQv := 1,
    txLen := 12, rxExpect := 11,
    txb := [(0, 0x00), (1, 0x07), (2, 0x00), (3, 0x00), (4, 0x00), (5, 0x06), (6, 0x01), (7, 0x03),
      (8, 0x00), (9, 0x00), (10, 0x00), (11, 0x01)],
    inputs := inputs }

/-- T1's command: ReadHoldingRegisters 0, 1. -/
def readOne : Command := ⟨0x03, 0, 1, false, 0, [], []⟩

/-! ## Well-formedness: each check refuses -/

theorem test_wf_coils_length : (Instr.writeMultipleCoils 0 3 [true, false]).wellFormed = false := by decide
theorem test_wf_coils_byteCount :
    (Instr.writeMultipleCoils 0 2041 (List.replicate 2041 true)).wellFormed = false := by
  rw [Instr.wellFormed, coilsFit, List.length_replicate]; rfl
theorem test_wf_words_length : (Instr.writeMultipleRegisters 0 2 [1]).wellFormed = false := by decide
theorem test_wf_words_byteCount :
    (Instr.writeMultipleRegisters 0 128 (List.replicate 128 7)).wellFormed = false := by
  rw [Instr.wellFormed, wordsFit, List.length_replicate]; rfl
theorem test_wf_echo_length :
    (Instr.writeSingleCoilRsp ⟨2, 5, 1, [0x00, 0xAC, 0xFF]⟩).wellFormed = false := by decide
theorem test_wf_command_bits :
    (Command.mk 0x0F 0 0 false 0 (List.replicate 65536 true) []).wellFormed = false := by
  rw [Command.wellFormed, List.length_replicate]; rfl
theorem test_wf_command_words :
    (Command.mk 0x10 0 0 false 0 [] (List.replicate 65536 0)).wellFormed = false := by
  rw [Command.wellFormed, List.length_replicate]; rfl

/-! ## Decoding: every constructor, from bytes written out by the formats of R93 to R101 -/

/-- E2. -/
theorem test_decode_readCoils : (decode 0 (.request
    [0x12, 0x34, 0x00, 0x00, 0x00, 0x06, 0x11, 0x01, 0x00, 0x13, 0x00, 0x25])).toOption =
    some (.readCoils 0x0013 0x25) := by decide
/-- E3. -/
theorem test_decode_readDiscreteInputs : (decode 0 (.request
    [0xFF, 0xFF, 0x00, 0x00, 0x00, 0x06, 0x01, 0x02, 0xFF, 0xFF, 0x07, 0xD0])).toOption =
    some (.readDiscreteInputs 0xFFFF 2000) := by decide
/-- E1, the source's S2. -/
theorem test_decode_readHoldingRegisters : (decode 0 (.request
    [0x00, 0x00, 0x00, 0x00, 0x00, 0x06, 0x01, 0x03, 0x00, 0x00, 0x00, 0x01])).toOption =
    some (.readHoldingRegisters 0x0000 1) := by decide
/-- E4. -/
theorem test_decode_readInputRegisters : (decode 0 (.request
    [0x00, 0x01, 0x00, 0x00, 0x00, 0x06, 0x01, 0x04, 0x00, 0x08, 0x00, 0x7D])).toOption =
    some (.readInputRegisters 0x0008 125) := by decide
/-- E5 and E5b. -/
theorem test_decode_writeSingleCoil : (decode 0 (.request
    [0x00, 0x02, 0x00, 0x00, 0x00, 0x06, 0x01, 0x05, 0x00, 0xAC, 0xFF, 0x00])).toOption =
    some (.writeSingleCoil 0x00AC true) ∧ (decode 0 (.request
    [0x00, 0x03, 0x00, 0x00, 0x00, 0x06, 0x01, 0x05, 0x00, 0xAC, 0x00, 0x00])).toOption =
    some (.writeSingleCoil 0x00AC false) := by decide
/-- E6b. -/
theorem test_decode_writeSingleRegister : (decode 0 (.request
    [0x00, 0x05, 0x00, 0x00, 0x00, 0x06, 0xFF, 0x06, 0xFF, 0xFF, 0xFF, 0xFE])).toOption =
    some (.writeSingleRegister 0xFFFF 0xFFFE) := by decide
/-- E8: ten coils, 0xCD then 0x01. -/
theorem test_decode_writeMultipleCoils : (decode 0 (.request
    [0x00, 0x07, 0x00, 0x00, 0x00, 0x09, 0x01, 0x0F, 0x00, 0x13, 0x00, 0x0A, 0x02, 0xCD, 0x01])).toOption =
    some (.writeMultipleCoils 0x0013 10
      [true, false, true, true, false, false, true, true, true, false]) := by decide
/-- E9. -/
theorem test_decode_writeMultipleRegisters : (decode 0 (.request
    [0x00, 0x08, 0x00, 0x00, 0x00, 0x0B, 0x01, 0x10, 0x00, 0x01, 0x00, 0x02, 0x04, 0x00, 0x0A, 0x01,
      0x02])).toOption = some (.writeMultipleRegisters 0x0001 2 [0x000A, 0x0102]) := by decide
/-- D2. -/
theorem test_decode_readCoilsRsp : (decode 0x01 (.response
    [0x12, 0x34, 0x00, 0x00, 0x00, 0x06, 0x11, 0x01, 0x03, 0xCD, 0x6B, 0x05])).toOption =
    some (.readCoilsRsp ⟨0x1234, 6, 0x11, [0x03, 0xCD, 0x6B, 0x05]⟩) := by decide
/-- D21. -/
theorem test_decode_readDiscreteInputsRsp : (decode 0x02 (.response
    [0x00, 0x05, 0x00, 0x00, 0x00, 0x04, 0x01, 0x02, 0x01, 0xFD])).toOption =
    some (.readDiscreteInputsRsp ⟨0x0005, 4, 0x01, [0x01, 0xFD]⟩) := by decide
/-- D1. -/
theorem test_decode_readHoldingRegistersRsp : (decode 0x03 (.response
    [0x00, 0x00, 0x00, 0x00, 0x00, 0x05, 0x01, 0x03, 0x02, 0x12, 0x34])).toOption =
    some (.readHoldingRegistersRsp ⟨0x0000, 5, 0x01, [0x02, 0x12, 0x34]⟩) := by decide
/-- D16. -/
theorem test_decode_readInputRegistersRsp : (decode 0x04 (.response
    [0xFF, 0xFF, 0x00, 0x00, 0x00, 0x07, 0x01, 0x04, 0x04, 0xFF, 0xFE, 0x80, 0x00])).toOption =
    some (.readInputRegistersRsp ⟨0xFFFF, 7, 0x01, [0x04, 0xFF, 0xFE, 0x80, 0x00]⟩) := by decide
/-- D11. -/
theorem test_decode_writeSingleCoilRsp : (decode 0x05 (.response
    [0x00, 0x02, 0x00, 0x00, 0x00, 0x06, 0x01, 0x05, 0x00, 0xAC, 0xFF, 0x00])).toOption =
    some (.writeSingleCoilRsp ⟨0x0002, 6, 0x01, [0x00, 0xAC, 0xFF, 0x00]⟩) := by decide
/-- D22. -/
theorem test_decode_writeSingleRegisterRsp : (decode 0x06 (.response
    [0x00, 0x04, 0x00, 0x00, 0x00, 0x06, 0x01, 0x06, 0x00, 0x01, 0x00, 0x03])).toOption =
    some (.writeSingleRegisterRsp ⟨0x0004, 6, 0x01, [0x00, 0x01, 0x00, 0x03]⟩) := by decide
/-- D23. -/
theorem test_decode_writeMultipleCoilsRsp : (decode 0x0F (.response
    [0x00, 0x06, 0x00, 0x00, 0x00, 0x06, 0x01, 0x0F, 0x00, 0x13, 0x00, 0x03])).toOption =
    some (.writeMultipleCoilsRsp ⟨0x0006, 6, 0x01, [0x00, 0x13, 0x00, 0x03]⟩) := by decide
/-- D14. -/
theorem test_decode_writeMultipleRegistersRsp : (decode 0x10 (.response
    [0x00, 0x08, 0x00, 0x00, 0x00, 0x06, 0x01, 0x10, 0x00, 0x01, 0x00, 0x02])).toOption =
    some (.writeMultipleRegistersRsp ⟨0x0008, 6, 0x01, [0x00, 0x01, 0x00, 0x02]⟩) := by decide
/-- D2d. -/
theorem test_decode_readCoilsExc : (decode 0x01 (.response
    [0x12, 0x34, 0x00, 0x00, 0x00, 0x03, 0x11, 0x81, 0x01])).toOption =
    some (.readCoilsExc ⟨0x1234, 3, 0x11, [0x01]⟩) := by decide
theorem test_decode_readDiscreteInputsExc : (decode 0x02 (.response
    [0x00, 0x05, 0x00, 0x00, 0x00, 0x03, 0x01, 0x82, 0x02])).toOption =
    some (.readDiscreteInputsExc ⟨0x0005, 3, 0x01, [0x02]⟩) := by decide
/-- D3. -/
theorem test_decode_readHoldingRegistersExc : (decode 0x03 (.response
    [0x00, 0x00, 0x00, 0x00, 0x00, 0x03, 0x01, 0x83, 0x02])).toOption =
    some (.readHoldingRegistersExc ⟨0x0000, 3, 0x01, [0x02]⟩) := by decide
/-- D16b. -/
theorem test_decode_readInputRegistersExc : (decode 0x04 (.response
    [0xFF, 0xFF, 0x00, 0x00, 0x00, 0x03, 0x01, 0x84, 0x02])).toOption =
    some (.readInputRegistersExc ⟨0xFFFF, 3, 0x01, [0x02]⟩) := by decide
/-- D13b. -/
theorem test_decode_writeSingleCoilExc : (decode 0x05 (.response
    [0x00, 0x02, 0x00, 0x00, 0x00, 0x03, 0x01, 0x85, 0x03])).toOption =
    some (.writeSingleCoilExc ⟨0x0002, 3, 0x01, [0x03]⟩) := by decide
theorem test_decode_writeSingleRegisterExc : (decode 0x06 (.response
    [0x00, 0x04, 0x00, 0x00, 0x00, 0x03, 0x01, 0x86, 0x03])).toOption =
    some (.writeSingleRegisterExc ⟨0x0004, 3, 0x01, [0x03]⟩) := by decide
theorem test_decode_writeMultipleCoilsExc : (decode 0x0F (.response
    [0x00, 0x06, 0x00, 0x00, 0x00, 0x03, 0x01, 0x8F, 0x04])).toOption =
    some (.writeMultipleCoilsExc ⟨0x0006, 3, 0x01, [0x04]⟩) := by decide
/-- D15b. -/
theorem test_decode_writeMultipleRegistersExc : (decode 0x10 (.response
    [0x00, 0x08, 0x00, 0x00, 0x00, 0x03, 0x01, 0x90, 0x04])).toOption =
    some (.writeMultipleRegistersExc ⟨0x0008, 3, 0x01, [0x04]⟩) := by decide
/-- R114: `conv_op` 00, 01, 10; 11 is reserved. -/
theorem test_decode_conversions :
    (decode 0 (.conv ⟨0b00, [0x0000, 0x3F80], 0⟩)).toOption = some (.r2fLH [0x0000, 0x3F80]) ∧
    (decode 0 (.conv ⟨0b01, [0x0000, 0x3F80], 0⟩)).toOption = some (.r2fHL [0x0000, 0x3F80]) ∧
    (decode 0 (.conv ⟨0b10, [], 0xFFFE⟩)).toOption = some (.s16 0xFFFE) ∧
    (decode 0 (.conv ⟨0b11, [], 0⟩)).toOption = none := by decide
/-- A reserved function code, a wrong protocol identifier, a code that is no row for this `PEND_FC` (D21b), a
write echo with `length` 5 (D13). -/
theorem test_decode_refuses :
    (decode 0 (.request [0, 0, 0, 0, 0, 6, 1, 0x07, 0, 0, 0, 1])).toOption = none ∧
    (decode 0 (.request [0, 0, 0, 1, 0, 6, 1, 0x03, 0, 0, 0, 1])).toOption = none ∧
    (decode 0x02 (.response [0x00, 0x05, 0, 0, 0, 4, 1, 0x01, 0x01, 0x05])).toOption = none ∧
    (decode 0x05 (.response [0x00, 0x02, 0, 0, 0, 5, 1, 0x05, 0x00, 0xAC, 0xFF])).toOption = none := by decide

/-- The request frames of E8 and E9 with a `length` that is not 7 + `byteCount` (R92, R95 against the literal
5 + 2*quantity of 90_conflicts.md C1, R108). -/
theorem test_decode_refuses_length :
    decodeRequest [0x00, 0x07, 0x00, 0x00, 0x00, 0x00, 0x01, 0x0F, 0x00, 0x13, 0x00, 0x0A, 0x02, 0xCD, 0x01] =
      .error .length ∧
    decodeRequest [0x00, 0x08, 0x00, 0x00, 0x00, 0x09, 0x01, 0x10, 0x00, 0x01, 0x00, 0x02, 0x04, 0x00, 0x0A,
      0x01, 0x02] = .error .length := ⟨rfl, rfl⟩

/-! ## Words of the opcode table -/

theorem test_table_words :
    decodeTableWord 64 0x0000000000060002 = some (.readDiscreteInputs 0 0) ∧
    decodeTableWord 64 0x0000000000060010 = some (.writeMultipleRegistersRsp ⟨0, 6, 0, [0, 0, 0, 0]⟩) ∧
    decodeTableWord 64 0x0000000000000081 = some (.readCoilsExc ⟨0, 0, 0, [0]⟩) ∧
    decodeTableWord 8 0x01 = some (.r2fHL [0, 0]) ∧
    decodeTableWord 64 0x0000000000000007 = none := by decide

/-- The placed word runs as the first instruction after reset: it draws the identifier 0. -/
theorem test_fetch_request :
    ((after (State.reset.withFetchWord 64 0x0000000000060006)).map fun t => (t.tid, t.phase, t.pendFc)) =
      some (1, .send, 0x06) := by decide
theorem test_fetch_response :
    ((after (State.reset.withFetchWord 64 0x0000000000000083)).map fun t => (t.resStatus, t.resKind)) =
      some (.protocolError, .words) := by decide
theorem test_fetch_conv :
    ((after (State.reset.withFetchWord 8 0x00)).map (·.convOut)) = some (.value 0) := by decide

/-! ## Requests: one step of the CMD step each -/

/-- The frame presented after the step, and `RX_EXPECT`. -/
def shows (s : State) : Option (List Byte × BitVec 9) := (after s).bind presented

/-- T1. -/
theorem test_T1_presents : shows (idleAt 7 [.cmd readOne]) =
    some ([0x00, 0x07, 0x00, 0x00, 0x00, 0x06, 0x01, 0x03, 0x00, 0x00, 0x00, 0x01], 11) := by decide
theorem test_T1_latches : ((after (idleAt 7 [.cmd readOne])).map fun t =>
    (t.tid, t.pendTid, t.pendFc, t.pendQv, t.phase)) = some (8, 7, 3, 1, .send) := by decide
/-- E2: ReadCoils from unit 0x11. -/
theorem test_E2_presents : shows { idleAt 0x1234 [.cmd ⟨0x01, 0x0013, 0x25, false, 0, [], []⟩] with cfgUnit := 0x11 } =
    some ([0x12, 0x34, 0x00, 0x00, 0x00, 0x06, 0x11, 0x01, 0x00, 0x13, 0x00, 0x25], 14) := by decide
/-- E3: the identifier wraps. -/
theorem test_E3_presents : shows (idleAt 0xFFFF [.cmd ⟨0x02, 0xFFFF, 2000, false, 0, [], []⟩]) =
    some ([0xFF, 0xFF, 0x00, 0x00, 0x00, 0x06, 0x01, 0x02, 0xFF, 0xFF, 0x07, 0xD0], 259) := by decide
theorem test_E3_wraps : ((after (idleAt 0xFFFF [.cmd ⟨0x02, 0xFFFF, 2000, false, 0, [], []⟩])).map (·.tid)) =
    some 0 := by decide
/-- E4. -/
theorem test_E4_presents : shows (idleAt 1 [.cmd ⟨0x04, 8, 125, false, 0, [], []⟩]) =
    some ([0x00, 0x01, 0x00, 0x00, 0x00, 0x06, 0x01, 0x04, 0x00, 0x08, 0x00, 0x7D], 259) := by decide
/-- E5b: OFF is no zero quantity. -/
theorem test_E5b_presents : shows (idleAt 3 [.cmd ⟨0x05, 0x00AC, 0, false, 0, [], []⟩]) =
    some ([0x00, 0x03, 0x00, 0x00, 0x00, 0x06, 0x01, 0x05, 0x00, 0xAC, 0x00, 0x00], 12) := by decide
/-- E6. -/
theorem test_E6_presents : shows (idleAt 4 [.cmd ⟨0x06, 1, 0, false, 3, [], []⟩]) =
    some ([0x00, 0x04, 0x00, 0x00, 0x00, 0x06, 0x01, 0x06, 0x00, 0x01, 0x00, 0x03], 12) := by decide
/-- E7b: no shift by the address; E8c: item 8 is bit 0 of the second byte. -/
theorem test_E7b_presents : shows (idleAt 6 [.cmd ⟨0x0F, 0xFFFF, 3, false, 0, [true, false, true], []⟩]) =
    some ([0x00, 0x06, 0x00, 0x00, 0x00, 0x08, 0x01, 0x0F, 0xFF, 0xFF, 0x00, 0x03, 0x01, 0x05], 12) := by decide
theorem test_E8c_presents : shows (idleAt 7 [.cmd ⟨0x0F, 0, 9, false, 0,
      [false, false, false, false, false, false, false, false, true], []⟩]) =
    some ([0x00, 0x07, 0x00, 0x00, 0x00, 0x09, 0x01, 0x0F, 0x00, 0x00, 0x00, 0x09, 0x02, 0x00, 0x01], 12) := by
  decide
/-- E9b: `length` is 7 + 2*2. -/
theorem test_E9b_presents : shows (idleAt 9 [.cmd ⟨0x10, 0x0064, 2, false, 0, [], [0x0000, 0x3F80]⟩]) =
    some ([0x00, 0x09, 0x00, 0x00, 0x00, 0x0B, 0x01, 0x10, 0x00, 0x64, 0x00, 0x02, 0x04, 0x00, 0x00, 0x3F, 0x80],
      12) := by decide

/-- The completion after the step: status, detail, exception code, kind, count. -/
def ends (s : State) : Option (Status × BitVec 4 × Byte × ResKind × BitVec 11) :=
  (after s).map fun t => (t.resStatus, t.resDetail, t.resExc, t.resKind, t.resCount)

/-- X1, X6, X8: zero, too large. -/
theorem test_X1 : ends (idleAt 7 [.cmd ⟨0x01, 0, 0, false, 0, [], []⟩]) =
    some (.encodingError, 1, 0, .bits, 0) := by decide
theorem test_X6 : ends (idleAt 7 [.cmd ⟨0x02, 0, 65535, false, 0, [], []⟩]) =
    some (.encodingError, 2, 0, .bits, 0) := by decide
theorem test_X8 : ends (idleAt 7 [.cmd ⟨0x04, 0, 126, false, 0, [], []⟩]) =
    some (.encodingError, 2, 0, .words, 0) := by decide
/-- T3: the identifier of a refused command is spent. -/
theorem test_T3 : ((after (idleAt 7 [.cmd ⟨0x03, 0, 0, false, 0, [], []⟩])).map fun t =>
    (t.tid, t.phase, t.txb)) = some (8, .idle, []) := by decide
/-- X12: QuantityZero before PayloadLength; X15. -/
theorem test_X12 : ends (idleAt 7 [.cmd ⟨0x0F, 0, 0, false, 0, [true], []⟩]) =
    some (.encodingError, 1, 0, .flag, 0) := by decide
theorem test_X15 : ends (idleAt 7 [.cmd ⟨0x10, 0, 2, false, 0, [], [1]⟩]) =
    some (.encodingError, 3, 0, .flag, 0) := by decide
/-- X17: a reserved op. -/
theorem test_X17 : ends (idleAt 7 [.cmd ⟨0x83, 0, 0, false, 0, [], []⟩]) =
    some (.encodingError, 5, 0, .none, 0) := by decide

/-! ## Responses: one RX_FRAME step each -/

/-- The completion of this frame under this record. -/
def rx (p : Pending) (raw : List Byte) : Option (Status × BitVec 4 × Byte × ResKind × BitVec 11) :=
  ends (awaiting p [.rxFrame raw])

/-- D2: 19 coils; the second of them is 0. -/
theorem test_D2 : ((after (awaiting pb [.rxFrame
    [0x12, 0x34, 0x00, 0x00, 0x00, 0x06, 0x11, 0x01, 0x03, 0xCD, 0x6B, 0x05]])).map (·.resBits)) =
    some [true, false, true, true, false, false, true, true, true, true, false, true, false, true, true,
      false, true, false, true] := by decide
/-- D2c. -/
theorem test_D2c : rx pb [0x12, 0x34, 0x00, 0x00, 0x00, 0x05, 0x11, 0x01, 0x02, 0xCD, 0x6B] =
    some (.protocolError, 8, 0, .bits, 0) := by decide
/-- D21. -/
theorem test_D21 : ((after (awaiting pc [.rxFrame
    [0x00, 0x05, 0x00, 0x00, 0x00, 0x04, 0x01, 0x02, 0x01, 0xFD]])).map fun t => (t.resBits, t.rxLen)) =
    some ([true, false, true], 10) := by decide
/-- D1 and D9. -/
theorem test_D1 : ((after (awaiting pa [.rxFrame
    [0x00, 0x00, 0x00, 0x00, 0x00, 0x05, 0x01, 0x03, 0x02, 0x12, 0x34]])).map (·.resWords)) =
    some [0x1234] := by decide
theorem test_D9 : rx pa [0x00, 0x00, 0x00, 0x00, 0x00, 0x07, 0x01, 0x03, 0x04, 0x12, 0x34, 0x56, 0x78] =
    some (.protocolError, 8, 0, .words, 0) := by decide
/-- D16. -/
theorem test_D16 : ((after (awaiting pd [.rxFrame
    [0xFF, 0xFF, 0x00, 0x00, 0x00, 0x07, 0x01, 0x04, 0x04, 0xFF, 0xFE, 0x80, 0x00]])).map (·.resWords)) =
    some [0xFFFE, 0x8000] := by decide
/-- D11 and D12. -/
theorem test_D11 : rx pw [0x00, 0x02, 0x00, 0x00, 0x00, 0x06, 0x01, 0x05, 0x00, 0xAC, 0xFF, 0x00] =
    some (.ok, 0, 0, .flag, 0) := by decide
theorem test_D12 : rx pw [0x00, 0x02, 0x00, 0x00, 0x00, 0x06, 0x01, 0x05, 0x00, 0xAC, 0x00, 0x00] =
    some (.protocolError, 9, 0, .flag, 0) := by decide
/-- D22 and D22b. -/
theorem test_D22 : rx pr [0x00, 0x04, 0x00, 0x00, 0x00, 0x06, 0x01, 0x06, 0x00, 0x01, 0x00, 0x03] =
    some (.ok, 0, 0, .flag, 0) := by decide
theorem test_D22b : rx pr [0x00, 0x04, 0x00, 0x00, 0x00, 0x06, 0x01, 0x06, 0x00, 0x01, 0x00, 0x04] =
    some (.protocolError, 9, 0, .flag, 0) := by decide
/-- D23 and D23c: the request echoed whole is BodyMalformed. -/
theorem test_D23 : rx pm [0x00, 0x06, 0x00, 0x00, 0x00, 0x06, 0x01, 0x0F, 0x00, 0x13, 0x00, 0x03] =
    some (.ok, 0, 0, .flag, 0) := by decide
theorem test_D23c : rx pm [0x00, 0x06, 0x00, 0x00, 0x00, 0x08, 0x01, 0x0F, 0x00, 0x13, 0x00, 0x03, 0x01, 0x05] =
    some (.protocolError, 8, 0, .flag, 0) := by decide
/-- D14 and D15. -/
theorem test_D14 : rx pn [0x00, 0x08, 0x00, 0x00, 0x00, 0x06, 0x01, 0x10, 0x00, 0x01, 0x00, 0x02] =
    some (.ok, 0, 0, .flag, 0) := by decide
theorem test_D15 : rx pn [0x00, 0x08, 0x00, 0x00, 0x00, 0x06, 0x01, 0x10, 0x00, 0x01, 0x00, 0x01] =
    some (.protocolError, 9, 0, .flag, 0) := by decide
/-- D2d, D3c, D16b, D13b, D15b: the code after the function code, whatever follows. -/
theorem test_D2d : rx pb [0x12, 0x34, 0x00, 0x00, 0x00, 0x03, 0x11, 0x81, 0x01] =
    some (.protocolError, 7, 1, .bits, 0) := by decide
theorem test_D3c : rx pa [0x00, 0x00, 0x00, 0x00, 0x00, 0x04, 0x01, 0x83, 0x02, 0xFF] =
    some (.protocolError, 7, 2, .words, 0) := by decide
theorem test_D3b : rx pa [0x00, 0x00, 0x00, 0x00, 0x00, 0x02, 0x01, 0x83] =
    some (.protocolError, 8, 0, .words, 0) := by decide
theorem test_D16b : rx pd [0xFF, 0xFF, 0x00, 0x00, 0x00, 0x03, 0x01, 0x84, 0x02] =
    some (.protocolError, 7, 2, .words, 0) := by decide
theorem test_D13b : rx pw [0x00, 0x02, 0x00, 0x00, 0x00, 0x03, 0x01, 0x85, 0x03] =
    some (.protocolError, 7, 3, .flag, 0) := by decide
theorem test_D15b : rx pn [0x00, 0x08, 0x00, 0x00, 0x00, 0x03, 0x01, 0x90, 0x04] =
    some (.protocolError, 7, 4, .flag, 0) := by decide
/-- D17 to D20 and D8b: the first fault in the order of R160. -/
theorem test_D17 : rx pa [0x00, 0x01, 0x00, 0x01, 0x00, 0x09, 0x02, 0x04, 0x02, 0x12, 0x34] =
    some (.protocolError, 2, 0, .words, 0) := by decide
theorem test_D18 : rx pa [0x00, 0x00, 0x00, 0x01, 0x00, 0x09, 0x02, 0x04, 0x02, 0x12, 0x34] =
    some (.protocolError, 3, 0, .words, 0) := by decide
theorem test_D19 : rx pa [0x00, 0x00, 0x00, 0x00, 0x00, 0x09, 0x02, 0x04, 0x02, 0x12, 0x34] =
    some (.protocolError, 4, 0, .words, 0) := by decide
theorem test_D20 : rx pa [0x00, 0x00, 0x00, 0x00, 0x00, 0x05, 0x02, 0x04, 0x02, 0x12, 0x34] =
    some (.protocolError, 5, 0, .words, 0) := by decide
theorem test_D8b : rx pa [0x00, 0x00, 0x00, 0x00, 0x00, 0x03, 0x01, 0x84, 0x02] =
    some (.protocolError, 6, 0, .words, 0) := by decide
theorem test_D10 : rx pa [0x00, 0x00, 0x00, 0x00, 0x00, 0x05, 0x01] =
    some (.protocolError, 1, 0, .words, 0) := by decide

/-! ## Conversions -/

/-- F5 and F11. -/
theorem test_F5 : ((after (idleAt 0 [.conv ⟨0b00, [0xCCCD, 0x3DCC], 0⟩])).map (·.convOut)) =
    some (.value 0x3DCCCCCD) := by decide
theorem test_F11 : ((after (idleAt 0 [.conv ⟨0b01, [1, 2, 3], 0⟩])).map (·.convOut)) =
    some (.error .notTwoWords) := by decide
/-- F9. -/
theorem test_F9 : ((after (idleAt 0 [.conv ⟨0b01, [0x4248, 0x0000], 0⟩])).map (·.convOut)) =
    some (.value 0x42480000) := by decide
/-- F14 and F13. -/
theorem test_F14 : ((after (idleAt 0 [.conv ⟨0b10, [], 0x8000⟩])).map (·.convOut)) =
    some (.value 0xFFFF8000) := by decide
theorem test_F13 : ((after (idleAt 0 [.conv ⟨0b10, [], 0x7FFF⟩])).map (·.convOut)) =
    some (.value 0x00007FFF) := by decide

/-! ## The other steps -/

theorem test_T4 : ((after (sendT1 [.txDone true])).map (·.phase)) = some .await := by decide
theorem test_T5 : ends (sendT1 [.txDone false]) = some (.transportError, 1, 0, .words, 0) := by decide
theorem test_T8 : ends (awaiting pa [.rxTimeout]) = some (.timeoutError, 0, 0, .words, 0) := by decide
theorem test_T10 : ends (sendT1 [.abort]) = some (.transportError, 3, 0, .words, 0) := by decide
/-- T12: the command waits, the event behind it is taken. -/
theorem test_T12 : ((after (sendT1 [.cmd readOne, .txDone true])).map fun t => (t.phase, t.tid, t.inputs)) =
    some (.await, 8, [.cmd readOne]) := by decide
theorem test_T13 : ((after (idleAt 7 [.rxFail])).map fun t => (t.resValid, t.phase)) = some (false, .idle) := by
  decide
theorem test_T14 : ((after (sendT1 [.setUnit 9])).map fun t => (t.cfgUnit, t.pendUnit, t.phase)) =
    some (9, 1, .send) := by decide
theorem test_T15 : ((after (awaiting pa [.reset])).map fun t => (t.tid, t.phase, t.cfgUnit, t.resValid)) =
    some (0, .idle, 1, false) := by decide
theorem test_read_before_completion : ((after (idleAt 7 [.read .resStatus])).map (·.readOut)) = some none := by
  decide
theorem test_read_tid : ((after (idleAt 7 [.read .tid])).map (·.readOut)) = some (some 7) := by decide
/-- D1's result, read back: status, count, the word, and none past the count. -/
theorem test_read_result : ([HostReg.resStatus, .resKind, .resCount, .resWord 0, .resWord 1].map fun r =>
    (after { State.reset with
      resValid := true, resStatus := .ok, resOk := true, resKind := .words, resCount := 1,
      resWords := [0x1234], inputs := [.read r] }).map (·.readOut)) =
    [some (some 0), some (some 2), some (some 1), some (some 0x1234), some none] := by decide
/-- R34 in AWAIT: `RX_EXPECT` of a one-register read is 11, and `TXB` is not readable any more. -/
theorem test_transport_await : ((after (sendT1 [.txDone true])).map transportView) =
    some { txLen := some 12, rxExpect := some 11, frame := none } := by decide
theorem test_read_outside : after (idleAt 7 [.read (.resWord 125)]) = none := by decide

/-! ## Witnesses: for each statement with hypotheses, a case that meets them -/

theorem witness_DecodeAfterEncode :
    (Instr.writeMultipleCoils 0xFFFF 9 [true, false, true, true, false, false, true, true, true]).wellFormed = true ∧
    (Instr.writeMultipleRegisters 1 2 [10, 0x0102]).wellFormed = true ∧
    (Instr.writeSingleCoilRsp ⟨2, 6, 1, [0x00, 0xAC, 0xFF, 0x00]⟩).wellFormed = true := by decide

theorem witness_ResponseDecodingLosesNothing :
    decodeResponse 0x03 [0x00, 0x00, 0x00, 0x00, 0x00, 0x03, 0x01, 0x83, 0x02] =
      .ok (.readHoldingRegistersExc ⟨0, 3, 1, [0x02]⟩) := rfl

/-- The limits of this hardware, and the largest the constraint allows. -/
theorem witness_limits : config.limitsFit = true ∧
    { config with maxRdBits := 2040, maxWrBits := 2040, maxRdRegs := 127, maxWrRegs := 127 }.limitsFit = true := by
  decide

/-- WriteMultipleCoils with 2000 items is encoded, whatever they are. -/
theorem coils_2000 (bits : List Bool) (h : bits.length = 2000) :
    ∃ f, enc config 0 1 ⟨0x0F, 0, 2000, false, 0, bits, []⟩ = .ok f :=
  ⟨reqMCoils config 0 1 0 2000 bits, by
    show checkQuantity 2000 2000 (if bits.length ≠ 2000 then _ else _) = _
    exact checkQuantity_ok.2 ⟨by decide, by decide, if_neg (by rw [h]; decide)⟩⟩

/-- WriteMultipleRegisters with 125 words is encoded, whatever they are. -/
theorem words_125 (words : List Word) (h : words.length = 125) :
    ∃ f, enc config 0 1 ⟨0x10, 0, 125, false, 0, [], words⟩ = .ok f :=
  ⟨reqMRegs config 0 1 0 125 words, by
    show checkQuantity 125 125 (if words.length ≠ 125 then _ else _) = _
    exact checkQuantity_ok.2 ⟨by decide, by decide, if_neg (by rw [h]; decide)⟩⟩

/-- A frame of each shape of `RequestFrameSizes`, at quantity 1 and at the maximum. -/
theorem witness_frames :
    (∃ f, enc config 0 1 ⟨0x01, 0, 2000, false, 0, [], []⟩ = .ok f) ∧
    (∃ f, enc config 0 1 ⟨0x0F, 0, 1, false, 0, [true], []⟩ = .ok f) ∧
    (∃ f, enc config 0 1 ⟨0x0F, 0, 2000, false, 0, List.replicate 2000 true, []⟩ = .ok f) ∧
    (∃ f, enc config 0 1 ⟨0x10, 0, 1, false, 0, [], [7]⟩ = .ok f) ∧
    (∃ f, enc config 0 1 ⟨0x10, 0, 125, false, 0, [], List.replicate 125 7⟩ = .ok f) :=
  ⟨⟨_, rfl⟩, ⟨_, rfl⟩, coils_2000 _ List.length_replicate, ⟨_, rfl⟩, words_125 _ List.length_replicate⟩

/-- An even last byte, a padded one, and none: items 0 and 7, byte 1 with padding, no item at all. -/
theorem witness_CoilPackingIsBitForBit :
    (List.replicate 9 true).length = (9 : Word).toNat ∧ 0 < (9 : Word).toNat ∧ 8 < (9 : Word).toNat ∧
    (1 < ((9 : Word).toNat + 7) / 8 ∧ 7 < 8 ∧ (9 : Word).toNat ≤ 8 * 1 + 7) ∧
    ([] : List Bool).length = (0 : Word).toNat := by decide

theorem witness_PresentedFrameIsTheCommand :
    (encodeCommand (.readHoldingRegisters 0 1)).isSome = true ∧ (idleAt 7 []).phase = .idle ∧
    ∃ t, exec (.readHoldingRegisters 0 1) (idleAt 7 []) = .next t ∧ t.phase = .send :=
  ⟨rfl, rfl, _, rfl, rfl⟩

/-- The boundary quantities of the bit reads and of WriteMultipleCoils. -/
theorem witness_bit_quantities :
    (idleAt 7 []).phase = .idle ∧ (0 : Word) = 0 ∧ 2000 < (2001 : Word).toNat ∧ 2000 < (65535 : Word).toNat ∧
    (1 ≤ (1 : Word).toNat ∧ (1 : Word).toNat ≤ 2000) ∧ (1 ≤ (2000 : Word).toNat ∧ (2000 : Word).toNat ≤ 2000) ∧
    [true, false].length ≠ (3 : Word).toNat ∧ [true, false, true].length = (3 : Word).toNat := by decide

/-- The boundary quantities of the register reads and of WriteMultipleRegisters. -/
theorem witness_register_quantities :
    (idleAt 7 []).phase = .idle ∧ (0 : Word) = 0 ∧ 125 < (126 : Word).toNat ∧ 125 < (65535 : Word).toNat ∧
    (1 ≤ (1 : Word).toNat ∧ (1 : Word).toNat ≤ 125) ∧ (1 ≤ (125 : Word).toNat ∧ (125 : Word).toNat ≤ 125) ∧
    ([1] : List Word).length ≠ (2 : Word).toNat ∧ ([10, 0x0102] : List Word).length = (2 : Word).toNat := by decide

theorem witness_SingleWriteRequests : (idleAt 2 []).phase = .idle := rfl

theorem witness_BusyRequestChangesNothing :
    (encodeCommand (.writeSingleCoil 0 true)).isSome = true ∧ (sendT1 []).phase ≠ .idle := by decide

theorem witness_BusyCommandWaits :
    (sendT1 [.cmd readOne, .txDone true]).phase ≠ .idle ∧
    (sendT1 [.cmd readOne, .txDone true]).inputs = .cmd readOne :: [.txDone true] := by decide

theorem witness_ReservedOpCompletes :
    (idleAt 7 [.cmd ⟨0x07, 0, 2, false, 0, [], []⟩]).phase = .idle ∧
    (∀ op : Byte, op = 0x00 ∨ op = 0x07 ∨ op = 0x83 ∨ op = 0xFF →
      op ≠ 0x01 ∧ op ≠ 0x02 ∧ op ≠ 0x03 ∧ op ≠ 0x04 ∧ op ≠ 0x05 ∧ op ≠ 0x06 ∧ op ≠ 0x0F ∧ op ≠ 0x10) := by
  refine ⟨rfl, ?_⟩
  rintro op (rfl | rfl | rfl | rfl) <;> decide

/-- D2 (nineteen items), D2c (wrong `byteCount`), and a frame without `byteCount`. -/
theorem witness_BitReadResponses :
    (awaiting pb []).phase = .await ∧ (awaiting pb []).pendFc = 0x01 ∧
    headerAgrees (awaiting pb []) ⟨0x1234, 6, 0x11, [0x03, 0xCD, 0x6B, 0x05]⟩ ∧
    ((0x03 : Byte).toNat = ((awaiting pb []).pendQv.toNat + 7) / 8 ∧
      ([0xCD, 0x6B, 0x05] : List Byte).length = (0x03 : Byte).toNat) ∧
    headerAgrees (awaiting pb []) ⟨0x1234, 5, 0x11, [0x02, 0xCD, 0x6B]⟩ ∧
    (0x02 : Byte).toNat ≠ ((awaiting pb []).pendQv.toNat + 7) / 8 ∧
    headerAgrees (awaiting pb []) ⟨0x1234, 2, 0x11, []⟩ ∧
    (awaiting pc []).pendFc = 0x02 ∧ headerAgrees (awaiting pc []) ⟨5, 4, 1, [0x01, 0xFD]⟩ := by
  unfold headerAgrees; decide

/-- D16 (two words), D9c (one byte too many). -/
theorem witness_RegisterReadResponses :
    (awaiting pd []).phase = .await ∧ (awaiting pd []).pendFc = 0x04 ∧
    headerAgrees (awaiting pd []) ⟨0xFFFF, 7, 1, [0x04, 0xFF, 0xFE, 0x80, 0x00]⟩ ∧
    ((0x04 : Byte).toNat = 2 * (awaiting pd []).pendQv.toNat ∧
      ([0xFF, 0xFE, 0x80, 0x00] : List Byte).length = (0x04 : Byte).toNat) ∧
    (awaiting pa []).pendFc = 0x03 ∧ headerAgrees (awaiting pa []) ⟨0, 6, 1, [0x02, 0x12, 0x34, 0x56]⟩ ∧
    ([0x12, 0x34, 0x56] : List Byte).length ≠ (0x02 : Byte).toNat := by
  unfold headerAgrees; decide

/-- D11, D12 and a body of three bytes; the other three rows under their own record. -/
theorem witness_WriteResponsesCheckTheEcho :
    (awaiting pw []).phase = .await ∧ (awaiting pw []).pendFc = 0x05 ∧ (awaiting pr []).pendFc = 0x06 ∧
    (awaiting pm []).pendFc = 0x0F ∧ (awaiting pn []).pendFc = 0x10 ∧
    headerAgrees (awaiting pw []) ⟨2, 6, 1, [0x00, 0xAC, 0xFF, 0x00]⟩ ∧
    [0x00, 0xAC, 0xFF, 0x00] = [hi pw.addr, lo pw.addr, hi pw.qv, lo pw.qv] ∧
    headerAgrees (awaiting pw []) ⟨2, 6, 1, [0x00, 0xAC, 0x00, 0x00]⟩ ∧
    headerAgrees (awaiting pw []) ⟨2, 5, 1, [0x00, 0xAC, 0xFF]⟩ := by
  unfold headerAgrees; decide

/-- D3, D3c and D3b: a code, a code with a byte behind it, no code. -/
theorem witness_ExceptionResponsesReportTheirCode :
    (awaiting pa []).phase = .await ∧ (awaiting pa []).pendFc = 0x03 ∧
    headerAgrees (awaiting pa []) ⟨0, 3, 1, [0x02]⟩ ∧ headerAgrees (awaiting pa []) ⟨0, 4, 1, [0x02, 0xFF]⟩ ∧
    headerAgrees (awaiting pa []) ⟨0, 2, 1, []⟩ := by
  unfold headerAgrees; decide

/-- D10, D4, D5, D6, D7, D3, D3b, D8: each clause, at 7, 8, 9 and 11 bytes. -/
theorem witness_DecReportsTheFirstFault :
    dec pa [0x00, 0x00, 0x00, 0x00, 0x00, 0x05, 0x01] = .error .tooShort ∧
    dec pa [0x00, 0x01, 0x00, 0x00, 0x00, 0x05, 0x01, 0x03, 0x02, 0x12, 0x34] = .error .tidMismatch ∧
    dec pa [0x00, 0x00, 0x00, 0x01, 0x00, 0x05, 0x01, 0x03, 0x02, 0x12, 0x34] = .error .protocolId ∧
    dec pa [0x00, 0x00, 0x00, 0x00, 0x00, 0x06, 0x01, 0x03, 0x02, 0x12, 0x34] = .error .lengthMismatch ∧
    dec pa [0x00, 0x00, 0x00, 0x00, 0x00, 0x05, 0x02, 0x03, 0x02, 0x12, 0x34] = .error .unitMismatch ∧
    dec pa [0x00, 0x00, 0x00, 0x00, 0x00, 0x03, 0x01, 0x83, 0x02] = .error (.exception 0x02) ∧
    dec pa [0x00, 0x00, 0x00, 0x00, 0x00, 0x02, 0x01, 0x83] = .error .bodyMalformed ∧
    dec pa [0x00, 0x00, 0x00, 0x00, 0x00, 0x05, 0x01, 0x04, 0x02, 0x12, 0x34] = .error .functionMismatch := by
  refine ⟨rfl, rfl, rfl, rfl, rfl, rfl, rfl, rfl⟩

/-- The same for line 8: D21, D1, D9, 8 bytes without a `byteCount`, D11, D12, D23c. -/
theorem witness_DecReportsTheFirstFault_body :
    dec pc [0x00, 0x05, 0x00, 0x00, 0x00, 0x04, 0x01, 0x02, 0x01, 0xFD] = .ok (.bits [true, false, true]) ∧
    dec pa [0x00, 0x00, 0x00, 0x00, 0x00, 0x05, 0x01, 0x03, 0x02, 0x12, 0x34] = .ok (.words [0x1234]) ∧
    dec pa [0x00, 0x00, 0x00, 0x00, 0x00, 0x07, 0x01, 0x03, 0x04, 0x12, 0x34, 0x56, 0x78] =
      .error .bodyMalformed ∧
    dec pc [0x00, 0x05, 0x00, 0x00, 0x00, 0x02, 0x01, 0x02] = .error .bodyMalformed ∧
    dec pw [0x00, 0x02, 0x00, 0x00, 0x00, 0x06, 0x01, 0x05, 0x00, 0xAC, 0xFF, 0x00] = .ok .done ∧
    dec pw [0x00, 0x02, 0x00, 0x00, 0x00, 0x06, 0x01, 0x05, 0x00, 0xAC, 0x00, 0x00] = .error .echoMismatch ∧
    dec pm [0x00, 0x06, 0x00, 0x00, 0x00, 0x08, 0x01, 0x0F, 0x00, 0x13, 0x00, 0x03, 0x01, 0x05] =
      .error .bodyMalformed :=
  ⟨rfl, rfl, rfl, rfl, rfl, rfl, rfl⟩

theorem witness_ResponseRowsComputeDec :
    (awaiting pa [.rxFrame [0x00]]).phase = .await ∧
    encode 0 0 (.readHoldingRegistersExc ⟨0, 3, 1, [0x02]⟩) =
      .response [0x00, 0x00, 0x00, 0x00, 0x00, 0x03, 0x01, 0x83, 0x02] ∧
    ([0x00] : List Byte) ≠ [] ∧ (awaiting pa [.rxFrame [0x00]]).inputs = .rxFrame [0x00] :: [] := by decide

theorem witness_DataHasTheRequestedQuantity :
    dec pc [0x00, 0x05, 0x00, 0x00, 0x00, 0x04, 0x01, 0x02, 0x01, 0xFD] = .ok (.bits [true, false, true]) ∧
    dec pa [0x00, 0x00, 0x00, 0x00, 0x00, 0x05, 0x01, 0x03, 0x02, 0x12, 0x34] = .ok (.words [0x1234]) ∧
    dec pw [0x00, 0x02, 0x00, 0x00, 0x00, 0x06, 0x01, 0x05, 0x00, 0xAC, 0xFF, 0x00] = .ok .done :=
  ⟨rfl, rfl, rfl⟩

/-- D2 and D2b: 19 items, bits 3 to 7 of the last byte are padding. -/
theorem witness_PaddingBitsIgnored :
    pb.fc = 0x01 ∧
    [0x12, 0x34, 0x00, 0x00, 0x00, 0x06, 0x11, 0x01, 0x03, 0xCD, (0x6B : Byte)].length + 1 =
      9 + (pb.qv.toNat + 7) / 8 ∧
    1 ≤ pb.qv.toNat ∧
    (∀ b, b < 8 → 8 * ((pb.qv.toNat - 1) / 8) + b < pb.qv.toNat →
      (0x05 : Byte).getLsbD b = (0xFD : Byte).getLsbD b) := by decide

theorem witness_RegistersToFloatComposes : ([] : List Word).length ≠ 2 ∧ ([1, 2, 3] : List Word).length ≠ 2 := by
  decide

theorem witness_StepRunsTheCommand :
    (idleAt 7 [.cmd readOne]).phase = .idle ∧ (idleAt 7 [.cmd readOne]).inputs = .cmd readOne :: [] ∧
    decodeCommand readOne = .ok (.readHoldingRegisters 0 1) := ⟨rfl, rfl, rfl⟩

/-- A command that `ENC` accepts and one it refuses. -/
theorem witness_CommandStepPresentsEnc :
    (idleAt 7 [.cmd readOne]).phase = .idle ∧ (idleAt 7 [.cmd readOne]).inputs = .cmd readOne :: [] ∧
    enc config 7 1 readOne = .ok [0x00, 0x07, 0x00, 0x00, 0x00, 0x06, 0x01, 0x03, 0x00, 0x00, 0x00, 0x01] ∧
    enc config 7 1 { readOne with qty := 0 } = .error .quantityZero := ⟨rfl, rfl, rfl, rfl⟩

/-- An accepted command and its `TX_DONE`, and a state in each phase. -/
theorem witness_TransportReadsItsPort :
    (idleAt 7 [.cmd readOne, .txDone true]).phase = .idle ∧ (∃ frame, enc config 7 1 readOne = .ok frame) ∧
    (idleAt 7 [.cmd readOne, .txDone true]).inputs = .cmd readOne :: .txDone true :: [] ∧
    (sendT1 []).phase = .send ∧ (awaiting pa []).phase = .await := ⟨rfl, ⟨_, rfl⟩, rfl, rfl, rfl⟩

/-- A record of each op, a reserved one, and the record of an instruction. -/
theorem witness_CommandRecordSelectsItsRow :
    (∀ op ∈ [(0x01 : Byte), 0x02, 0x03, 0x04, 0x05, 0x06, 0x0F, 0x10], { readOne with op := op }.op = op) ∧
    (∀ op ∈ [(0x01 : Byte), 0x02, 0x03, 0x04, 0x05, 0x06, 0x0F, 0x10], { readOne with op := 0x07 }.op ≠ op) ∧
    encodeCommand (.readHoldingRegisters 0 1) = some readOne := by decide

/-- A fixed frame with bytes after it, and the two multiple writes, one with an empty rest. -/
theorem witness_RequestDecodingAgreesWithLength :
    decodeRequest [0x00, 0x00, 0x00, 0x00, 0x00, 0x06, 0x01, 0x03, 0x00, 0x00, 0x00, 0x01, 0xAA] =
      .ok (.readHoldingRegisters 0 1, [0xAA]) ∧
    decodeRequest [0x00, 0x06, 0x00, 0x00, 0x00, 0x08, 0x01, 0x0F, 0xFF, 0xFF, 0x00, 0x03, 0x01, 0x05] =
      .ok (.writeMultipleCoils 0xFFFF 3 [true, false, true], []) ∧
    decodeRequest [0x00, 0x09, 0x00, 0x00, 0x00, 0x09, 0x01, 0x10, 0x00, 0x64, 0x00, 0x01, 0x02, 0x3F, 0x80] =
      .ok (.writeMultipleRegisters 0x0064 1 [0x3F80], []) := ⟨rfl, rfl, rfl⟩

theorem witness_StepRunsTheResponse :
    (awaiting pa [.rxFrame [0x00, 0x00, 0x00, 0x00, 0x00, 0x03, 0x01, 0x83, 0x02]]).phase = .await ∧
    (awaiting pa [.rxFrame [0x00, 0x00, 0x00, 0x00, 0x00, 0x03, 0x01, 0x83, 0x02]]).inputs =
      .rxFrame [0x00, 0x00, 0x00, 0x00, 0x00, 0x03, 0x01, 0x83, 0x02] :: [] ∧
    decodeResponse (awaiting pa []).pendFc [0x00, 0x00, 0x00, 0x00, 0x00, 0x03, 0x01, 0x83, 0x02] =
      .ok (.readHoldingRegistersExc ⟨0, 3, 1, [0x02]⟩) := ⟨rfl, rfl, rfl⟩

theorem witness_StepRunsTheConversion :
    (sendT1 [.conv ⟨0b10, [], 5⟩]).inputs = .conv ⟨0b10, [], 5⟩ :: [] ∧
    decodeConv ⟨0b10, [], 5⟩ = .ok (.s16 5) ∧ (ConvInput.mk 0b11 [] 0).op = 0b11 := ⟨rfl, rfl, rfl⟩

/-- The first element that does not exist, of each buffer, and the reserved `conv_op`. -/
theorem witness_StepStopsOnlyOutsideTheSpec :
    step (idleAt 7 [.read (.resBit 2000)]) = .fault .outsideBuffer ∧
    step (idleAt 7 [.read (.resWord 125)]) = .fault .outsideBuffer ∧
    step (idleAt 7 [.conv ⟨0b11, [], 0⟩]) = .refused .reservedConvOp := ⟨rfl, rfl, rfl⟩

theorem witness_TransportEventsComplete :
    ((sendT1 [.txDone true]).phase = .send ∧ (sendT1 [.txDone true]).inputs = .txDone true :: []) ∧
    (sendT1 [.txDone false]).inputs = .txDone false :: [] ∧
    ((awaiting pa [.rxFail]).phase = .await ∧ (awaiting pa [.rxFail]).inputs = .rxFail :: []) ∧
    (awaiting pa [.rxFrame []]).inputs = .rxFrame [] :: [] ∧
    (awaiting pa [.rxTimeout]).inputs = .rxTimeout :: [] ∧ (awaiting pa [.abort]).inputs = .abort :: [] ∧
    ((idleAt 7 [.abort]).phase = .idle ∧ (idleAt 7 [.abort]).inputs = .abort :: []) := by decide

theorem witness_EventsOutsideTheirPhaseDoNothing :
    (idleAt 7 [.rxFrame [0]]).phase ≠ .await ∧ (sendT1 [.rxTimeout]).phase ≠ .await ∧
    (awaiting pa [.txDone true]).phase ≠ .send ∧
    ((idleAt 7 [.abort]).phase ≠ .send ∧ (idleAt 7 [.abort]).phase ≠ .await) ∧
    (idleAt 7 [.abort]).inputs = .abort :: [] := by decide

theorem witness_ResponsesOutsideAwaitDoNothing :
    encode 0 0 (.readCoilsExc ⟨0, 3, 1, [0x02]⟩) =
      .response [0x00, 0x00, 0x00, 0x00, 0x00, 0x03, 0x01, 0x81, 0x02] ∧ (sendT1 []).phase ≠ .await := by decide

theorem witness_SetUnitWritesCfgUnit : (sendT1 [.setUnit 9]).inputs = .setUnit 9 :: [] := rfl

theorem witness_ResetLeavesNoOtherValue : (awaiting pa [.reset]).inputs = .reset :: [] := rfl

/-- One bit result and one word result, at their last element and past it. -/
def readBits (r : HostReg) : State :=
  { State.reset with
    resValid := true, resOk := true, resKind := .bits, resCount := 2, resBits := [false, true],
    inputs := [.read r] }
def readWords (r : HostReg) : State :=
  { State.reset with
    resValid := true, resOk := true, resKind := .words, resCount := 2, resWords := [7, 0x8000],
    inputs := [.read r] }

/-- The hypotheses, for every register and the last existing element of each buffer; then each clause where the
state holds a value and where it holds none. -/
theorem witness_HostReadsChangeNoRegister :
    (∀ r ∈ [HostReg.tid, .phase, .cfgUnit, .pendTid, .pendUnit, .pendFc, .pendAddr, .pendQv, .txLen, .rxExpect,
        .rxLen, .resValid, .resStatus, .resDetail, .resExc, .resOk, .resKind, .resCount, .resBit 1999,
        .resWord 124],
      (readBits r).inputs = .read r :: [] ∧ hostRegExists r = true) ∧
    ((sendT1 []).phase = .send ∧ (awaiting pa []).phase = .await ∧ (idleAt 7 []).phase = .idle) ∧
    ((readBits (.resBit 1)).resValid = true ∧ 1 < (readBits (.resBit 1)).resCount.toNat ∧
      (readBits (.resBit 1)).resBits[1]? = some true ∧ (readBits (.resBit 2)).resBits[2]? = none) ∧
    ((readWords (.resWord 1)).resValid = true ∧ 1 < (readWords (.resWord 1)).resCount.toNat ∧
      (readWords (.resWord 1)).resWords[1]? = some 0x8000 ∧ ¬2 < (readWords (.resWord 2)).resCount.toNat) ∧
    ((idleAt 7 []).resValid = false ∧ (idleAt 7 []).rxLen = 0 ∧ { idleAt 7 [] with rxLen := 9 }.rxLen ≠ 0) := by
  decide

/-- What the reads of those states show: each latch and length register in SEND and none in IDLE, each element. -/
theorem witness_shown :
    ([HostReg.pendTid, .pendUnit, .pendFc, .pendAddr, .pendQv, .txLen, .rxExpect].map (readReg (sendT1 []))) =
      [some 7, some 1, some 3, some 0, some 1, some 12, some 11] ∧
    ([HostReg.pendTid, .pendUnit, .pendFc, .pendAddr, .pendQv, .txLen, .rxExpect].map (readReg (idleAt 7 []))) =
      List.replicate 7 none ∧
    ([0, 1, 2].map fun i => readReg (readBits .tid) (.resBit i)) = [some 0, some 1, none] ∧
    ([0, 1, 2].map fun i => readReg (readWords .tid) (.resWord i)) = [some 7, some 0x8000, none] := by decide

/-- An event in its phase, and one that need not wait in any. -/
theorem witness_events :
    (sendT1 [.txDone true]).inputs = .txDone true :: [] ∧ mustWait .send (.txDone true) = false ∧
    (∃ t, step (sendT1 [.txDone true]) = .next t) ∧
    mustWait .idle (.cmd readOne) = false ∧ (∃ t, step (idleAt 7 [.cmd readOne]) = .next t) ∧
    Input.txDone true ≠ .reset ∧ (∀ c, Input.txDone true ≠ .cmd c) ∧ (∀ raw, Input.txDone true ≠ .rxFrame raw) ∧
    (∀ u, Input.txDone true ≠ .setUnit u) :=
  ⟨rfl, rfl, ⟨_, rfl⟩, rfl, ⟨_, rfl⟩, by simp, by simp, by simp, by simp⟩

/-- T6's completed state, and an event that is no command. -/
def done6 (inputs : List Input) : State :=
  { idleAt 8 inputs with resValid := true, resKind := .words, resCount := 1, resWords := [0x1234], resOk := true }

theorem witness_ResultsStayUntilTheNextCommand :
    (done6 [.abort]).resValid = true ∧ (done6 [.abort]).phase = .idle ∧ (done6 [.abort]).inputs = .abort :: [] ∧
    (∃ t, step (done6 [.abort]) = .next t) ∧ (∀ c, Input.abort ≠ .cmd c) ∧ Input.abort ≠ .reset :=
  ⟨rfl, rfl, rfl, ⟨_, rfl⟩, by simp, by simp⟩

/-- A request accepted, a request refused, a response: each answers a next state. -/
theorem witness_BytesOutsideTheFrameStay :
    (∃ t, exec (.readHoldingRegisters 0 1) (idleAt 7 []) = .next t ∧ t.phase = .send) ∧
    (∃ t, exec (.readHoldingRegisters 0 0) (idleAt 7 []) = .next t ∧ t.phase = .idle) ∧
    (∃ t, exec (.readHoldingRegistersExc ⟨0, 3, 1, [2]⟩) (awaiting pa []) = .next t ∧ t.rxLen = 9) :=
  ⟨⟨_, rfl, rfl⟩, ⟨_, rfl, rfl⟩, ⟨_, rfl, rfl⟩⟩

theorem witness_AcceptedCommandEnds :
    (idleAt 7 [.cmd readOne, .txDone true, .rxTimeout]).phase = .idle ∧
    enc config 7 1 readOne =
      .ok [0x00, 0x07, 0x00, 0x00, 0x00, 0x06, 0x01, 0x03, 0x00, 0x00, 0x00, 0x01] ∧
    transportAnswer [.txDone true, .rxTimeout] = true ∧
    (idleAt 7 [.cmd readOne, .txDone true, .rxTimeout]).inputs =
      .cmd readOne :: ([.txDone true, .rxTimeout] ++ []) ∧
    enc config 7 1 ⟨0x03, 0, 0, false, 0, [], []⟩ = .error .quantityZero := ⟨rfl, rfl, rfl, rfl, rfl⟩

theorem witness_StepKeepsBuffers :
    BuffersOk (sendT1 [.txDone true]) ∧ ∃ t, step (sendT1 [.txDone true]) = .next t :=
  ⟨⟨by decide, by decide, by decide, by decide⟩, _, rfl⟩

theorem witness_StepKeepsResults : ResultsAgree (done6 [.abort]) ∧ ∃ t, step (done6 [.abort]) = .next t :=
  ⟨⟨by decide, by decide, by decide, by decide, by decide, by decide, by decide⟩, _, rfl⟩

theorem witness_StepKeepsRequest :
    RequestAgrees (sendT1 [.txDone true]) ∧ ∃ t, step (sendT1 [.txDone true]) = .next t :=
  ⟨⟨by decide,
    fun _ => ⟨readOne, [0x00, 0x07, 0x00, 0x00, 0x00, 0x06, 0x01, 0x03, 0x00, 0x00, 0x00, 0x01],
      ⟨rfl, rfl, rfl, rfl, rfl, rfl, rfl, rfl, rfl, rfl⟩⟩,
    by decide, by decide⟩, _, rfl⟩

end Sys2Proof.Tests
end

/-! ## The command port: which row an `op` selects, and what a command's frame fixes -/

namespace Sys2Proof.Machine

/-- The request row of a function code, with a command record's own fields for its operands (R22, R113). -/
def commandRow (c : Command) : FunctionCode → Instr
  | .readCoils => .readCoils c.addr c.qty
  | .readDiscreteInputs => .readDiscreteInputs c.addr c.qty
  | .readHoldingRegisters => .readHoldingRegisters c.addr c.qty
  | .readInputRegisters => .readInputRegisters c.addr c.qty
  | .writeSingleCoil => .writeSingleCoil c.addr c.coil
  | .writeSingleRegister => .writeSingleRegister c.addr c.value
  | .writeMultipleCoils => .writeMultipleCoils c.addr c.qty c.bits
  | .writeMultipleRegisters => .writeMultipleRegisters c.addr c.qty c.words

/-- The eight values of `op` decode to their rows (R106, R113). -/
theorem decodeCommand_of_op {c : Command} (fc : FunctionCode) (h : c.op = fc.toByte) :
    decodeCommand c = .ok (commandRow c fc) := by
  simp only [decodeCommand, h, ofByte?_toByte]
  cases fc <;> rfl

/-- Every other value is reserved (R109). -/
theorem decodeCommand_of_reserved {c : Command} (h : ∀ fc : FunctionCode, c.op ≠ fc.toByte) :
    decodeCommand c = .error .reservedOp := by
  have hnone : FunctionCode.ofByte? c.op = none :=
    Option.eq_none_iff_forall_ne_some.2 fun fc hfc => h fc (toByte_of_ofByte? hfc).symm
  simp only [decodeCommand, hnone]

/-- The record of a request instruction leads back to it (R22). -/
theorem decodeCommand_encodeCommand {i : Instr} {c : Command} (h : encodeCommand i = some c) :
    decodeCommand c = .ok i := by
  cases i <;> simp only [encodeCommand, Option.some.injEq, reduceCtorEq] at h <;> subst h <;> rfl

/-- Settles O50: the opcode map has exactly the eight codes, so an `op` is one of their numbers or reserved. -/
theorem commandRecordSelectsItsRow : Obligations.CommandRecordSelectsItsRow := by
  intro c
  refine ⟨decodeCommand_of_op .readCoils, decodeCommand_of_op .readDiscreteInputs,
    decodeCommand_of_op .readHoldingRegisters, decodeCommand_of_op .readInputRegisters,
    decodeCommand_of_op .writeSingleCoil, decodeCommand_of_op .writeSingleRegister,
    decodeCommand_of_op .writeMultipleCoils, decodeCommand_of_op .writeMultipleRegisters,
    fun h1 h2 h3 h4 h5 h6 h15 h16 => decodeCommand_of_reserved fun fc => ?_,
    fun i => decodeCommand_encodeCommand⟩
  cases fc <;> assumption

/-- Every frame that `ENC` returns begins with the header of its command (R130). -/
theorem enc_ok_header {k : Config} {t : Word} {u : Byte} {c : Command} {frame : List Byte}
    (h : enc k t u c = .ok frame) : ∃ len tail, frame = header k t u len c.op c.addr ++ tail := by
  rcases enc_ok h with ⟨-, -, -, rfl⟩ | ⟨-, -, -, rfl⟩ | ⟨ho, rfl⟩ | ⟨ho, rfl⟩ | ⟨ho, -, -, -, rfl⟩ |
    ⟨ho, -, -, -, rfl⟩
  · exact ⟨_, _, rfl⟩
  · exact ⟨_, _, rfl⟩
  · rw [ho]; exact ⟨_, _, rfl⟩
  · rw [ho]; exact ⟨_, _, rfl⟩
  · rw [ho]; exact ⟨_, _, List.append_assoc ..⟩
  · rw [ho]; exact ⟨_, _, List.append_assoc ..⟩

/-- The frame of a read carries its quantity at offset 10, inside this hardware's limits (R93, R131). -/
theorem enc_ok_quantity {t : Word} {u : Byte} {c : Command} {frame : List Byte}
    (h : enc config t u c = .ok frame) :
    (c.op = 0x01 ∨ c.op = 0x02 → (wordAt frame 10).toNat ≤ 2000) ∧
    (c.op = 0x03 ∨ c.op = 0x04 → (wordAt frame 10).toNat ≤ 125) := by
  rcases enc_ok h with ⟨ho, -, hq, rfl⟩ | ⟨ho, -, hq, rfl⟩ | ⟨ho, -⟩ | ⟨ho, -⟩ | ⟨ho, -⟩ | ⟨ho, -⟩
  · rw [wordAt_reqFixed_ten]
    exact ⟨fun _ => hq, by rcases ho with ho | ho <;> simp [ho]⟩
  · rw [wordAt_reqFixed_ten]
    exact ⟨by rcases ho with ho | ho <;> simp [ho], fun _ => hq⟩
  all_goals simp [ho]

/-- Every frame that `ENC` returns on this hardware fits `TXB` (20_memory.md R61). -/
theorem enc_ok_length {t : Word} {u : Byte} {c : Command} {frame : List Byte}
    (h : enc config t u c = .ok frame) : frame.length ≤ 263 := by
  rcases enc_ok h with ⟨-, -, -, rfl⟩ | ⟨-, -, -, rfl⟩ | ⟨-, rfl⟩ | ⟨-, rfl⟩ | ⟨-, -, hq, -, rfl⟩ |
    ⟨-, -, hq, hl, rfl⟩
  · simp
  · simp
  · simp
  · simp
  · rw [length_reqMCoils, bitsByteCount]
    rw [config_maxWrBits] at hq
    omega
  · rw [length_reqMRegs _ _ _ _ _ _ hl, regsByteCount]
    rw [config_maxWrRegs] at hq
    omega

/-- `RX_EXPECT` of an accepted command fits its nine bits (R28, R250). -/
theorem expectOf_lt {t : Word} {u : Byte} {c : Command} {frame : List Byte}
    (h : enc config t u c = .ok frame) : expectOf c < 2 ^ 9 := by
  rcases enc_ok h with ⟨ho, -, hq, -⟩ | ⟨ho, -, hq, -⟩ | ⟨ho, -⟩ | ⟨ho, -⟩ | ⟨ho, -⟩ | ⟨ho, -⟩
  · rw [expectOf, if_pos ho]
    rw [config_maxRdBits] at hq
    omega
  · have h12 : ¬(c.op = 0x01 ∨ c.op = 0x02) := by rcases ho with ho | ho <;> simp [ho]
    rw [expectOf, if_neg h12, if_pos ho]
    rw [config_maxRdRegs] at hq
    omega
  all_goals simp [expectOf, ho]

/-- An accepted command is in flight, and the transport finds its frame in `TXB` (R36 b, R232). -/
theorem inFlightAgrees_latchRequest {s : State} {c : Command} {frame : List Byte}
    (h : enc config s.tid s.cfgUnit c = .ok frame) :
    InFlightAgrees
      (latchRequest c.op c.addr (expectOf c) frame (s.txb.writeAll 0 frame) s.tid (spendTid s)) c frame := by
  have hlen := enc_ok_length h
  obtain ⟨len, tail, hframe⟩ := enc_ok_header h
  obtain ⟨htid, -, -, hunit, hfc, haddr, -⟩ := header_fields config s.tid s.cfgUnit len c.op c.addr tail
  rw [← hframe] at htid hunit hfc haddr
  exact {
    encoded := h
    presented := by
      rw [latchRequest_txLen, latchRequest_txb, BitVec.toNat_ofNat, Nat.mod_eq_of_lt (by omega)]
      exact Memory.load_writeAll _ 0 frame (by omega)
    pendTid := htid.symm
    pendUnit := hunit.symm
    pendFc := hfc.symm
    pendAddr := haddr.symm
    pendQv := rfl
    rxExpect := by
      rw [latchRequest_rxExpect, BitVec.toNat_ofNat, Nat.mod_eq_of_lt (expectOf_lt h)]
    notValid := rfl
    nextTid := rfl }

end Sys2Proof.Machine

/-! ## The response port: every frame comes to `DEC`, and how much data `DEC` can answer -/

namespace Sys2Proof.Machine

/-- A received frame is the response frame of its own fields (R91). -/
theorem rspFrame_rspFields {raw : List Byte} (hlen : 8 ≤ raw.length) (hproto : wordAt raw 2 = config.protocolId) :
    rspFrame (byteAt raw 7) (rspFields raw) = raw := by
  match raw, hlen with
  | b0 :: b1 :: b2 :: b3 :: b4 :: b5 :: b6 :: b7 :: body, _ =>
    have h23 : be16 b2 b3 = config.protocolId := hproto
    have h2 : hi config.protocolId = b2 := by rw [← h23, hi_be16]
    have h3 : lo config.protocolId = b3 := by rw [← h23, lo_be16]
    simp only [rspFrame, rspFields, wordAt, byteAt_cons_zero, byteAt_cons_succ, hi_be16, lo_be16, h2, h3,
      List.drop_succ_cons, List.drop_zero, List.cons_append, List.nil_append]

/-- The rows a received frame can be: the exception or the normal response of the pending function code (R107). -/
theorem decodeResponse_ok {e : Byte} {raw : List Byte} {i : Instr} (h : decodeResponse e raw = .ok i) :
    8 ≤ raw.length ∧ wordAt raw 2 = config.protocolId ∧ ∃ fc : FunctionCode, e = fc.toByte ∧
      ((byteAt raw 7 = (e ||| 0x80) ∧ i = excRow (rspFields raw) fc) ∨
        (byteAt raw 7 = e ∧ i = rspRow (rspFields raw) fc)) := by
  unfold decodeResponse at h
  split at h
  · cases h
  rename_i hlen
  split at h
  · cases h
  rename_i hproto
  split at h
  · cases h
  rename_i fc hfc
  refine ⟨Nat.le_of_not_lt hlen, Decidable.not_not.1 hproto, fc, (toByte_of_ofByte? hfc).symm, ?_⟩
  split at h
  · exact .inl ⟨‹_›, (Except.ok.inj h).symm⟩
  · split at h
    · split at h
      · exact .inr ⟨‹_›, (Except.ok.inj h).symm⟩
      · cases h
    · cases h

/-- A normal-response row is the RX_FRAME step with the body rule of its function code (R169 to R176). -/
theorem exec_rspRow (r : RspFrame) (fc : FunctionCode) (s : State) :
    exec (rspRow r fc) s = receiveRow fc.toByte (bodyOf fc.toByte) r s := by
  cases fc <;> rfl

/-- An exception row is the RX_FRAME step with no body rule (R167). -/
theorem exec_excRow (r : RspFrame) (fc : FunctionCode) (s : State) :
    exec (excRow r fc) s = receiveRow (fc.toByte ||| 0x80) bodyNone r s := by
  cases fc <;> rfl

/-- An exception response never reaches line 8 of R160, so `DEC` answers the same under every body rule. -/
theorem decWith_exception (body body' : Pending → List Byte → Except ProtoDetail DecResult) {p : Pending}
    {raw : List Byte} (h : byteAt raw 7 = (p.fc ||| 0x80)) : decWith body p raw = decWith body' p raw := by
  simp only [decWith, if_pos h]

/-- A frame that is a row of the table runs the RX_FRAME step with the whole `DEC` (R160, R234). -/
theorem exec_decodeResponse {s : State} {raw : List Byte} {i : Instr}
    (h : decodeResponse s.pendFc raw = .ok i) : exec i s = receive raw (dec (pendingOf s) raw) s := by
  obtain ⟨hlen, hproto, fc, hfc, ⟨h7, rfl⟩ | ⟨h7, rfl⟩⟩ := decodeResponse_ok h
  · rw [exec_excRow, ← hfc, ← h7, receiveRow, rspFrame_rspFields hlen hproto, dec,
      decWith_exception bodyNone (bodyOf (pendingOf s).fc) h7]
  · rw [exec_rspRow, ← hfc, receiveRow]
    conv_lhs => rw [← h7, rspFrame_rspFields hlen hproto, h7]
    rfl

/-- RX_FRAME on a frame with bytes, in AWAIT: `DEC` on it, row of the table or not (R234). -/
theorem acceptFrame_await {s : State} {raw : List Byte} (hp : s.phase = .await) (hraw : raw ≠ []) :
    acceptFrame raw s =
      .next (finish (dec (pendingOf s) raw) (latchResponse raw (s.rxb.writeAll 0 (raw.take 259)) s)) := by
  have hrec : acceptFrame raw s = receive raw (dec (pendingOf s) raw) s := by
    rw [acceptFrame, if_pos hp, if_neg hraw]
    split
    · exact exec_decodeResponse ‹_›
    · rfl
  rw [hrec, receive_eq, if_pos hp]

/-- The body rules with their function codes (R160, line 8). -/
theorem bodyOf_cases (fc : Byte) :
    ((fc = 0x01 ∨ fc = 0x02) ∧ bodyOf fc = bodyBits) ∨ ((fc = 0x03 ∨ fc = 0x04) ∧ bodyOf fc = bodyRegs) ∨
      bodyOf fc = bodyEcho ∨ bodyOf fc = bodyNone := by
  rcases h : FunctionCode.ofByte? fc with _ | code
  · exact .inr (.inr (.inr (by simp only [bodyOf, h])))
  · obtain rfl := toByte_of_ofByte? h
    cases code
    case readCoils => exact .inl ⟨.inl rfl, rfl⟩
    case readDiscreteInputs => exact .inl ⟨.inr rfl, rfl⟩
    case readHoldingRegisters => exact .inr (.inl ⟨.inl rfl, rfl⟩)
    case readInputRegisters => exact .inr (.inl ⟨.inr rfl, rfl⟩)
    all_goals exact .inr (.inr (.inl rfl))

/-- The one-byte `byteCount` of a read response bounds the bytes its quantity asks for (R97, R98). -/
theorem readBodyFits_le {want : Nat} {raw : List Byte} (h : readBodyFits want raw = true) : want ≤ 255 := by
  simp only [readBodyFits, Bool.and_eq_true, decide_eq_true_eq] at h
  obtain ⟨⟨-, hcount⟩, -⟩ := h
  have := (byteAt raw 8).isLt
  omega

/-- Data of `DEC` stands under its own function code, has `PEND_QV` elements, and its bytes are counted by one byte:
at most 2040 bits or 127 words (R169 to R172, R180). -/
def dataFits (p : Pending) : DecResult → Prop
  | .bits l => (p.fc = 0x01 ∨ p.fc = 0x02) ∧ l.length = p.qv.toNat ∧ l.length ≤ 2040
  | .words l => (p.fc = 0x03 ∨ p.fc = 0x04) ∧ l.length = p.qv.toNat ∧ l.length ≤ 127
  | .done => True

/-- Whatever data `DEC` answers fits the pending record (R160, R180). -/
theorem dec_dataFits {p : Pending} {raw : List Byte} {d : DecResult} (h : dec p raw = .ok d) : dataFits p d := by
  obtain ⟨-, -, hbody⟩ := decWith_ok h
  rcases bodyOf_cases p.fc with ⟨hfc, hb⟩ | ⟨hfc, hb⟩ | hb | hb <;> rw [hb] at hbody
  · rcases bodyBits_cases p raw with ⟨hfit, heq⟩ | ⟨-, heq⟩ <;> rw [heq] at hbody <;> cases hbody
    have := readBodyFits_le hfit
    rw [bitsByteCount] at this
    exact ⟨hfc, length_unpackBits .., by rw [length_unpackBits]; omega⟩
  · rcases bodyRegs_cases p raw with ⟨hfit, heq⟩ | ⟨-, heq⟩ <;> rw [heq] at hbody <;> cases hbody
    have := readBodyFits_le hfit
    rw [regsByteCount] at this
    exact ⟨hfc, length_unpackWords .., by rw [length_unpackWords]; omega⟩
  · rcases bodyEcho_cases p raw with ⟨-, heq⟩ | ⟨-, -, heq⟩ | ⟨-, -, -, heq⟩ <;> rw [heq] at hbody <;> cases hbody
    trivial
  · cases hbody

end Sys2Proof.Machine

/-! ## What one event can do -/

namespace Sys2Proof.Machine

/-- The phases in which an event has its step (R230, R249, R279). -/
def enabledIn (p : Phase) : Input → Bool
  | .cmd _ => decide (p = .idle)
  | .txDone _ => decide (p = .send)
  | .rxFrame _ | .rxFail | .rxTimeout => decide (p = .await)
  | .abort => decide (p = .send ∨ p = .await)
  | .setUnit _ | .read _ | .conv _ | .reset => true

/-- The error with which a transport event ends the command in flight (R233, R235 to R237). -/
def transportError : Input → Option Error
  | .txDone false => some (.transport .sendFailed)
  | .rxFrame [] | .rxFail => some (.transport .receiveFailed)
  | .rxTimeout => some .timeout
  | .abort => some (.transport .closed)
  | .txDone true | .rxFrame (_ :: _) => none
  | .cmd _ | .setUnit _ | .read _ | .conv _ | .reset => none

/-- Everything that taking an event can come to (R230, R251), one constructor per kind of change. -/
inductive Effect (s : State) : Input → State → Prop where
  /-- R249, R279. -/
  | disabled {x : Input} (hx : enabledIn s.phase x = false) : Effect s x s
  /-- R143, R223, R280. -/
  | refused {c : Command} {d : EncDetail} (hp : s.phase = .idle)
      (he : enc config s.tid s.cfgUnit c = .error d) :
      Effect s (.cmd c) (raise c.op (.encoding d) (spendTid s))
  /-- R232. -/
  | presented {c : Command} {frame : List Byte} (hp : s.phase = .idle)
      (he : enc config s.tid s.cfgUnit c = .ok frame) :
      Effect s (.cmd c)
        (latchRequest c.op c.addr (expectOf c) frame (s.txb.writeAll 0 frame) s.tid (spendTid s))
  /-- R233. -/
  | sent (hp : s.phase = .send) : Effect s (.txDone true) { s with phase := .await }
  /-- R233, R235 to R237. -/
  | failed {x : Input} {e : Error} (hx : enabledIn s.phase x = true) (he : transportError x = some e) :
      Effect s x (raise s.pendFc e s)
  /-- R234. -/
  | answered {raw : List Byte} (hp : s.phase = .await) (hraw : raw ≠ []) :
      Effect s (.rxFrame raw)
        (finish (dec (pendingOf s) raw) (latchResponse raw (s.rxb.writeAll 0 (raw.take 259)) s))
  /-- R238. -/
  | unitSet (u : Byte) : Effect s (.setUnit u) (setUnit u s)
  /-- R239. -/
  | shown (r : HostReg) : Effect s (.read r) { s with readOut := readReg s r }
  /-- R254. -/
  | converted (p : ConvInput) (out : ConvOut) : Effect s (.conv p) (convShow out s)
  /-- R310. -/
  | reset : Effect s .reset (resetBlock s)

/-- The command port: busy, refused, or accepted (R232, R249). -/
theorem effect_of_acceptCommand {c : Command} {s t : State} (h : acceptCommand c s = .next t) :
    Effect s (.cmd c) t := by
  rw [acceptCommand_eq] at h
  rcases command_cases h with ⟨hp, rfl⟩ | ⟨hp, d, he, rfl⟩ | ⟨hp, frame, he, -, rfl⟩
  · exact .disabled (decide_eq_false hp)
  · exact .refused hp he
  · exact .presented hp he

/-- The receive port: out of phase, nothing received, or a frame (R234, R235, R279). -/
theorem effect_of_acceptFrame {raw : List Byte} {s t : State} (h : acceptFrame raw s = .next t) :
    Effect s (.rxFrame raw) t := by
  by_cases hp : s.phase = .await
  · rcases eq_or_ne raw [] with rfl | hraw
    · rw [acceptFrame, if_pos hp, if_pos rfl, rxFail, if_pos hp] at h
      cases h
      exact .failed (decide_eq_true hp) rfl
    · rw [acceptFrame_await hp hraw] at h
      cases h
      exact .answered hp hraw
  · rw [acceptFrame, if_neg hp] at h
    cases h
    exact .disabled (decide_eq_false hp)

/-- Only the conversions are decoded at the conversion port (R114). -/
theorem encode_of_decodeConv {p : ConvInput} {i : Instr} (h : decodeConv p = .ok i) (t : Word) (u : Byte) :
    ∃ q, encode t u i = .conv q := by
  unfold decodeConv at h
  split at h
  · cases h; exact ⟨_, rfl⟩
  · split at h
    · cases h; exact ⟨_, rfl⟩
    · split at h <;> cases h
      exact ⟨_, rfl⟩

/-- The conversion port shows a value and does nothing else (R254). -/
theorem effect_of_acceptConv {p : ConvInput} {s t : State} (h : acceptConv p s = .next t) :
    Effect s (.conv p) t := by
  unfold acceptConv at h
  split at h
  · obtain ⟨q, hq⟩ := encode_of_decodeConv ‹_› 0 0
    obtain ⟨out, hout⟩ := exec_conv hq s
    rw [hout] at h
    cases h
    exact .converted p out
  · cases h

/-- A transport event that completes with an error where its step is enabled, and changes nothing elsewhere
(R279, R280). -/
theorem effect_of_transportError {x : Input} {e : Error} {s : State} {P : Prop} [Decidable P]
    (hx : enabledIn s.phase x = decide P) (he : transportError x = some e) :
    Effect s x (if P then raise s.pendFc e s else s) := by
  by_cases hP : P
  · rw [if_pos hP]
    exact .failed (hx.trans (decide_eq_true hP)) he
  · rw [if_neg hP]
    exact .disabled (hx.trans (decide_eq_false hP))

/-- TX_DONE with success sends, with failure completes (R233). -/
theorem effect_txDone (ok : Bool) (s : State) : Effect s (.txDone ok) (txDone ok s) := by
  cases ok
  case false => exact effect_of_transportError rfl rfl
  case true =>
    by_cases hp : s.phase = .send
    · rw [txDone, if_pos hp]
      exact .sent hp
    · rw [txDone, if_neg hp]
      exact .disabled (decide_eq_false hp)

/-- Taking an event has one of the effects listed. -/
theorem effect_of_accept {x : Input} {s t : State} (h : accept x s = .next t) : Effect s x t := by
  cases x with
  | cmd c => exact effect_of_acceptCommand h
  | setUnit u => cases h; exact .unitSet u
  | read r =>
    simp only [accept, hostRead] at h
    split at h <;> cases h
    exact .shown r
  | conv p => exact effect_of_acceptConv h
  | reset => cases h; exact .reset
  | txDone ok => cases h; exact effect_txDone ok s
  | rxFrame raw => exact effect_of_acceptFrame h
  | rxFail => cases h; exact effect_of_transportError rfl rfl
  | rxTimeout => cases h; exact effect_of_transportError rfl rfl
  | abort => cases h; exact effect_of_transportError rfl rfl

/-- The step on an event that need not wait, at the head of the ports, has that event's effect (R230). -/
theorem step_effect {s t : State} {x : Input} {rest : List Input} (hi : s.inputs = x :: rest)
    (hw : mustWait s.phase x = false) (h : step s = .next t) : Effect { s with inputs := rest } x t :=
  effect_of_accept (step_head hi hw ▸ h)

/-- A property of the block that does not speak of the ports' lists and that every event keeps is kept by every
step. -/
theorem step_keeps {P : State → Prop} (hports : ∀ (s : State) (l : List Input), P s → P { s with inputs := l })
    (heffect : ∀ (s t : State) (x : Input), P s → Effect s x t → P t) {s t : State} (hs : P s)
    (h : step s = .next t) : P t := by
  rcases step_next h with ⟨-, rfl⟩ | ⟨x, rest, -, hx⟩
  · exact hs
  · exact heffect _ t x (hports s rest hs) (effect_of_accept hx)

end Sys2Proof.Machine

/-! ## What is written where (10_state.md R34) -/

namespace Sys2Proof.Machine

/-- The completion after RX_FRAME goes to IDLE and writes no register but the results (R234, R248, R280). -/
@[simp] theorem finish_frame (r : Except ProtoDetail DecResult) (s : State) :
    (finish r s).phase = .idle ∧ (finish r s).resValid = true ∧ (finish r s).tid = s.tid ∧
      (finish r s).cfgUnit = s.cfgUnit ∧ (finish r s).pendTid = s.pendTid ∧ (finish r s).pendUnit = s.pendUnit ∧
      (finish r s).pendFc = s.pendFc ∧ (finish r s).pendAddr = s.pendAddr ∧ (finish r s).pendQv = s.pendQv ∧
      (finish r s).txLen = s.txLen ∧ (finish r s).rxExpect = s.rxExpect ∧ (finish r s).rxLen = s.rxLen ∧
      (finish r s).txb = s.txb ∧ (finish r s).rxb = s.rxb ∧ (finish r s).inputs = s.inputs ∧
      (finish r s).convOut = s.convOut ∧ (finish r s).readOut = s.readOut := by
  rcases finish_cases r s with ⟨d, -, heq⟩ | ⟨e, -, heq⟩ <;> rw [heq]
  · rcases completeOk_cases d s with ⟨l, -, heq⟩ | ⟨l, -, heq⟩ | ⟨-, heq⟩ <;> simp [heq]
  · simp

/-- The latch, `TX_LEN`, `RX_EXPECT` and `TXB` are the command's to write (R23, R28, R61). -/
theorem Effect.keeps_request {s t : State} {x : Input} (h : Effect s x t) (hreset : x ≠ .reset)
    (hcmd : ∀ c, x ≠ .cmd c) :
    t.pendTid = s.pendTid ∧ t.pendUnit = s.pendUnit ∧ t.pendFc = s.pendFc ∧ t.pendAddr = s.pendAddr ∧
      t.pendQv = s.pendQv ∧ t.txLen = s.txLen ∧ t.rxExpect = s.rxExpect ∧ t.txb = s.txb := by
  cases h with
  | refused | presented => exact absurd rfl (hcmd _)
  | reset => exact absurd rfl hreset
  | disabled | sent | failed | answered | unitSet | shown | converted => simp

/-- `RX_LEN` and `RXB` are RX_FRAME's to write (R28, R62). -/
theorem Effect.keeps_response {s t : State} {x : Input} (h : Effect s x t) (hreset : x ≠ .reset)
    (hframe : ∀ raw, x ≠ .rxFrame raw) : t.rxLen = s.rxLen ∧ t.rxb = s.rxb := by
  cases h with
  | answered => exact absurd rfl (hframe _)
  | reset => exact absurd rfl hreset
  | disabled | refused | presented | sent | failed | unitSet | shown | converted => simp

/-- `CFG_UNIT` is SetUnit's to write (R27, R238). -/
theorem Effect.keeps_cfgUnit {s t : State} {x : Input} (h : Effect s x t) (hreset : x ≠ .reset)
    (hset : ∀ u, x ≠ .setUnit u) : t.cfgUnit = s.cfgUnit := by
  cases h with
  | unitSet => exact absurd rfl (hset _)
  | reset => exact absurd rfl hreset
  | disabled | refused | presented | sent | failed | answered | shown | converted => simp

/-- Settles O41, over the effects of one event. -/
theorem eachRegisterHasItsWriter : Obligations.EachRegisterHasItsWriter := by
  intro s t x rest hi hw h hreset
  have heffect := step_effect hi hw h
  refine ⟨fun hcmd => ?_, fun hframe => ?_, heffect.keeps_cfgUnit hreset⟩
  · obtain ⟨htid, hunit, hfc, haddr, hqv, htxLen, hexpect, htxb⟩ := heffect.keeps_request hreset hcmd
    exact ⟨htid, hunit, hfc, haddr, hqv, htxLen, hexpect, fun a => by rw [htxb]⟩
  · obtain ⟨hrxLen, hrxb⟩ := heffect.keeps_response hreset hframe
    exact ⟨hrxLen, fun a => by rw [hrxb]⟩

/-- The transport's view in SEND (R34, R231). -/
theorem transportView_send {s : State} (hp : s.phase = .send) :
    transportView s =
      { txLen := some s.txLen
        rxExpect := some s.rxExpect
        frame := (Memory.load 263 s.txb 0 s.txLen.toNat).toOption } := by
  cases hload : Memory.load 263 s.txb 0 s.txLen.toNat <;>
    simp [transportView, presented, inFlight, hp, hload, Except.toOption]

/-- The transport's view in AWAIT: the two lengths, `TXB` no longer (R34, R37). -/
theorem transportView_await {s : State} (hp : s.phase = .await) :
    transportView s = { txLen := some s.txLen, rxExpect := some s.rxExpect, frame := none } := by
  simp [transportView, presented, inFlight, hp]

/-- The transport's view in IDLE: nothing holds a value (R37). -/
theorem transportView_idle {s : State} (hp : s.phase = .idle) :
    transportView s = { txLen := none, rxExpect := none, frame := none } := by
  simp [transportView, presented, inFlight, hp]

/-- The step on a command that `ENC` accepts, in IDLE (R232). -/
theorem step_presents {s : State} {c : Command} {frame : List Byte} {rest : List Input} (hp : s.phase = .idle)
    (he : enc config s.tid s.cfgUnit c = .ok frame) (hi : s.inputs = .cmd c :: rest) :
    step s = .next (latchRequest c.op c.addr (expectOf c) frame (s.txb.writeAll 0 frame) s.tid
      (spendTid { s with inputs := rest })) := by
  rw [step_head hi (by simp [mustWait, hp]), accept, acceptCommand_eq]
  exact he ▸ command_accepts c.op c.addr (expectOf c) (s := { s with inputs := rest }) hp (enc_ok_length he)

/-- The step on TX_DONE with success, in SEND (R233). -/
theorem step_sent {s : State} {rest : List Input} (hp : s.phase = .send) (hi : s.inputs = .txDone true :: rest) :
    step s = .next { s with phase := .await, inputs := rest } := by
  rw [step_head hi rfl, accept, txDone, if_pos hp, if_pos rfl]

/-- Settles O52: in SEND the transport reads back the frame the command wrote; TX_DONE(true) leaves the two lengths
and ends the sight of `TXB`. -/
theorem transportReadsItsPort : Obligations.TransportReadsItsPort := by
  intro s
  refine ⟨fun c frame rest hp he hi => ?_, transportView_send, transportView_await, transportView_idle⟩
  have hload := (inFlightAgrees_latchRequest (s := { s with inputs := .txDone true :: rest }) he).presented
  refine ⟨_, _, step_presents hp he hi, step_sent rfl rfl, ?_, transportView_await rfl⟩
  rw [transportView_send rfl]
  exact congrArg _ (congrArg Except.toOption hload)

end Sys2Proof.Machine

/-! ## Invariants of the result registers (10_state.md R29 to R33, R36 c and d) -/

namespace Sys2Proof.Machine

/-- What the result registers hold does not depend on the unit, the ports' lists or the model's own outputs. -/
theorem ResultsAgree.with_ports {s : State} (h : ResultsAgree s) (u : Byte) (l : List Input) (o : ConvOut)
    (v : Option (BitVec 16)) :
    ResultsAgree { s with cfgUnit := u, inputs := l, convOut := o, readOut := v } where
  statusWritten := h.statusWritten
  validIdle := h.validIdle
  okFlag := h.okFlag
  countOk := h.countOk
  excOnly := h.excOnly
  bitsCount := h.bitsCount
  wordsCount := h.wordsCount

/-- While no result is valid, the clauses about a valid one hold of themselves, in any phase: a request or a sending
leaves the buffers as they are (R36 d). -/
theorem ResultsAgree.of_not_valid {s t : State} (h : ResultsAgree s) (hvalid : t.resValid = false)
    (hstatus : t.resStatus = s.resStatus) (hkind : t.resKind = s.resKind) (hcount : t.resCount = s.resCount)
    (hbits : t.resBits = s.resBits) (hwords : t.resWords = s.resWords) : ResultsAgree t where
  statusWritten := hstatus ▸ h.statusWritten
  validIdle := by simp [hvalid]
  okFlag := by simp [hvalid]
  countOk := by simp [hvalid]
  excOnly := by simp [hvalid]
  bitsCount := by rw [hbits, hkind, hcount]; exact h.bitsCount
  wordsCount := by rw [hwords, hkind, hcount]; exact h.wordsCount

/-- A completion with failure leaves one empty result whose exception code stands under its own detail (R280). -/
theorem resultsAgree_raise (op : Byte) (e : Error) (s : State) : ResultsAgree (raise op e s) where
  statusWritten := by cases e <;> simp [errorStatus]
  validIdle := by simp
  okFlag := by cases e <;> simp [errorStatus, okFlag]
  countOk := by simp
  excOnly := by
    rcases e with _ | _ | _ | d
    case protocol => cases d <;> simp [errorStatus, errorDetail, errorExc, protoCode]
    all_goals simp [errorExc]
  bitsCount := by simp
  wordsCount := by simp

/-- A completion with success counts its data, which eleven bits hold (R33, R248). -/
theorem resultsAgree_completeOk {p : Pending} {d : DecResult} (h : dataFits p d) (s : State) :
    ResultsAgree (completeOk d s) := by
  cases d with
  | bits l =>
    obtain ⟨-, -, hl⟩ := h
    have hmod : l.length % 2048 = l.length := Nat.mod_eq_of_lt (by omega)
    constructor <;> simp [completeOk, okFlag, hmod]
  | words l =>
    obtain ⟨-, -, hl⟩ := h
    have hmod : l.length % 2048 = l.length := Nat.mod_eq_of_lt (by omega)
    constructor <;> simp [completeOk, okFlag, hmod]
  | done => constructor <;> simp [completeOk, okFlag]

/-- The completion after RX_FRAME, with whatever `DEC` answers (R234). -/
theorem resultsAgree_finish_dec (p : Pending) (raw : List Byte) (s : State) :
    ResultsAgree (finish (dec p raw) s) := by
  rcases finish_cases (dec p raw) s with ⟨d, hd, heq⟩ | ⟨e, -, heq⟩ <;> rw [heq]
  · exact resultsAgree_completeOk (dec_dataFits hd) s
  · exact resultsAgree_raise _ _ s

/-- The registers right after reset hold no result (R35). -/
theorem resultsAgree_reset : ResultsAgree State.reset := by
  constructor <;> decide

/-- Every event keeps the result registers consistent. -/
theorem Effect.keeps_resultsAgree {s t : State} {x : Input} (hs : ResultsAgree s) (h : Effect s x t) :
    ResultsAgree t := by
  cases h with
  | disabled => exact hs
  | refused => exact resultsAgree_raise _ _ _
  | presented => exact hs.of_not_valid rfl rfl rfl rfl rfl rfl
  | sent hp =>
    have hvalid : s.resValid = false :=
      Bool.eq_false_iff.2 fun hv => Phase.noConfusion (hp.symm.trans (hs.validIdle hv))
    exact hs.of_not_valid hvalid rfl rfl rfl rfl rfl
  | failed => exact resultsAgree_raise _ _ _
  | answered => exact resultsAgree_finish_dec _ _ _
  | unitSet u => exact hs.with_ports u _ _ _
  | shown => exact hs.with_ports _ _ _ _
  | converted _ out => exact hs.with_ports _ _ out _
  | reset => exact resultsAgree_reset.with_ports _ _ _ _

/-- Settles O46, by the effect of the one event a step takes. -/
theorem stepKeepsResults : Obligations.StepKeepsResults := fun _ _ =>
  step_keeps (fun _ l hs => hs.with_ports _ l _ _) fun _ _ _ hs h => h.keeps_resultsAgree hs

end Sys2Proof.Machine

/-! ## Invariants of the request in flight (10_state.md R33, R36 a and b) -/

namespace Sys2Proof.Machine

/-- What is in flight does not depend on the phase, the unit now configured, the ports' lists or the model's own
outputs: the frame was built for the latched unit (R36 b, R238). -/
theorem InFlightAgrees.with_phase_ports {s : State} {c : Command} {frame : List Byte} (h : InFlightAgrees s c frame)
    (p : Phase) (u : Byte) (l : List Input) (o : ConvOut) (v : Option (BitVec 16)) :
    InFlightAgrees { s with phase := p, cfgUnit := u, inputs := l, convOut := o, readOut := v } c frame where
  encoded := h.encoded
  presented := h.presented
  pendTid := h.pendTid
  pendUnit := h.pendUnit
  pendFc := h.pendFc
  pendAddr := h.pendAddr
  pendQv := h.pendQv
  rxExpect := h.rxExpect
  notValid := h.notValid
  nextTid := h.nextTid

/-- A request in flight, or none, outlasts what the host does at its other ports (R230, R238, R239, R254). -/
theorem RequestAgrees.with_ports {s : State} (h : RequestAgrees s) (u : Byte) (l : List Input) (o : ConvOut)
    (v : Option (BitVec 16)) :
    RequestAgrees { s with cfgUnit := u, inputs := l, convOut := o, readOut := v } where
  phaseLegal := h.phaseLegal
  inFlight := fun hp => by
    obtain ⟨c, frame, hc⟩ := h.inFlight hp
    exact ⟨c, frame, hc.with_phase_ports _ u l o v⟩
  bitsFit := h.bitsFit
  wordsFit := h.wordsFit

/-- In IDLE nothing is in flight, so the sizes of the result buffers are all that is asked (R33). -/
theorem requestAgrees_of_idle {s : State} (hp : s.phase = .idle) (hbits : s.resBits.length ≤ 2000)
    (hwords : s.resWords.length ≤ 125) : RequestAgrees s where
  phaseLegal := by simp [hp]
  inFlight := by simp [hp]
  bitsFit := hbits
  wordsFit := hwords

/-- A completion with failure ends the request and empties the buffers (R280). -/
theorem requestAgrees_raise (op : Byte) (e : Error) (s : State) : RequestAgrees (raise op e s) :=
  requestAgrees_of_idle rfl (by simp) (by simp)

/-- The latch of a request in flight holds a read's operation and a quantity that `ENC` let through (R36 b, R131). -/
theorem InFlightAgrees.quantity_le {s : State} {c : Command} {frame : List Byte} (h : InFlightAgrees s c frame) :
    (s.pendFc = 0x01 ∨ s.pendFc = 0x02 → s.pendQv.toNat ≤ 2000) ∧
    (s.pendFc = 0x03 ∨ s.pendFc = 0x04 → s.pendQv.toNat ≤ 125) := by
  obtain ⟨len, tail, hframe⟩ := enc_ok_header h.encoded
  obtain ⟨-, -, -, -, hfc, -⟩ := header_fields config s.pendTid s.pendUnit len c.op c.addr tail
  rw [h.pendFc, h.pendQv, hframe, hfc, ← hframe]
  exact enc_ok_quantity h.encoded

/-- A completion with data for the request in flight fits the result buffers (R33, R180, R248). -/
theorem requestAgrees_completeOk {s : State} {c : Command} {frame : List Byte} {d : DecResult}
    (h : InFlightAgrees s c frame) (hd : dataFits (pendingOf s) d) (s' : State) :
    RequestAgrees (completeOk d s') := by
  obtain ⟨hbits, hwords⟩ := h.quantity_le
  cases d with
  | bits l =>
    obtain ⟨hfc, hl, -⟩ := hd
    exact requestAgrees_of_idle rfl (hl.trans_le (hbits hfc)) (Nat.zero_le _)
  | words l =>
    obtain ⟨hfc, hl, -⟩ := hd
    exact requestAgrees_of_idle rfl (Nat.zero_le _) (hl.trans_le (hwords hfc))
  | done => exact requestAgrees_of_idle rfl (Nat.zero_le _) (Nat.zero_le _)

/-- The completion after RX_FRAME fits the result buffers (R33, R234). -/
theorem requestAgrees_finish_dec {s : State} {c : Command} {frame : List Byte} (h : InFlightAgrees s c frame)
    (raw : List Byte) (s' : State) : RequestAgrees (finish (dec (pendingOf s) raw) s') := by
  rcases finish_cases (dec (pendingOf s) raw) s' with ⟨d, hd, heq⟩ | ⟨e, -, heq⟩ <;> rw [heq]
  · exact requestAgrees_completeOk h (dec_dataFits hd) s'
  · exact requestAgrees_raise _ _ s'

/-- Every event keeps the request in flight whole. -/
theorem Effect.keeps_requestAgrees {s t : State} {x : Input} (hs : RequestAgrees s) (h : Effect s x t) :
    RequestAgrees t := by
  cases h with
  | disabled => exact hs
  | refused => exact requestAgrees_raise _ _ _
  | presented _ he =>
    exact {
      phaseLegal := by simp
      inFlight := fun _ => ⟨_, _, inFlightAgrees_latchRequest he⟩
      bitsFit := hs.bitsFit
      wordsFit := hs.wordsFit }
  | sent hp =>
    obtain ⟨c, frame, hc⟩ := hs.inFlight (.inl hp)
    exact {
      phaseLegal := by simp
      inFlight := fun _ => ⟨c, frame, hc.with_phase_ports .await _ _ _ _⟩
      bitsFit := hs.bitsFit
      wordsFit := hs.wordsFit }
  | failed => exact requestAgrees_raise _ _ _
  | answered hp =>
    obtain ⟨c, frame, hc⟩ := hs.inFlight (.inr hp)
    exact requestAgrees_finish_dec hc _ _
  | unitSet u => exact hs.with_ports u _ _ _
  | shown => exact hs.with_ports _ _ _ _
  | converted _ out => exact hs.with_ports _ _ out _
  | reset => exact requestAgrees_of_idle rfl (Nat.zero_le _) (Nat.zero_le _)

/-- Settles O47, by the effect of the one event a step takes. -/
theorem stepKeepsRequest : Obligations.StepKeepsRequest := fun _ _ =>
  step_keeps (fun _ l hs => hs.with_ports _ l _ _) fun _ _ _ hs h => h.keeps_requestAgrees hs

/-- The buffers hold no byte right after reset (R35). -/
theorem buffersOk_reset : BuffersOk State.reset where
  txbWf := State.reset_wf.1
  rxbWf := State.reset_wf.2
  txbInside := by simp
  rxbInside := by simp

/-- Settles O48. The unspecified registers of R35 hold the model's values (log entry 1), but no result is valid and
the phase is IDLE, so no clause depends on them. -/
theorem invariantsAtReset : Obligations.InvariantsAtReset :=
  ⟨buffersOk_reset, resultsAgree_reset, requestAgrees_of_idle rfl (Nat.zero_le _) (Nat.zero_le _)⟩

end Sys2Proof.Machine

/-! ## Invariants of the frame buffers (20_memory.md R61, R62) -/

namespace Sys2Proof.Machine

/-- The invariant speaks of the two buffers only, so whatever leaves them as they are keeps it. -/
theorem BuffersOk.of_same_buffers {s t : State} (h : BuffersOk s) (htxb : t.txb = s.txb) (hrxb : t.rxb = s.rxb) :
    BuffersOk t where
  txbWf := htxb ▸ h.txbWf
  rxbWf := hrxb ▸ h.rxbWf
  txbInside := htxb ▸ h.txbInside
  rxbInside := hrxb ▸ h.rxbInside

/-- A request writes its frame to `TXB`, which holds it, and leaves `RXB` as it is (R61, R232). -/
theorem buffersOk_latchRequest {s : State} (h : BuffersOk s) {frame : List Byte} (hlen : frame.length ≤ 263)
    (op : Byte) (addr : Word) (n : Nat) (t : Word) :
    BuffersOk (latchRequest op addr n frame (s.txb.writeAll 0 frame) t (spendTid s)) :=
  have hstore := Memory.store_of_le s.txb ((Nat.zero_add _).trans_le hlen)
  { txbWf := Memory.wf_store h.txbWf hstore
    rxbWf := h.rxbWf
    txbInside := Memory.inside_store h.txbInside hstore
    rxbInside := h.rxbInside }

/-- A response, cut to the 259 bytes `RXB` has, is written there and leaves `TXB` as it is (R62, R234). -/
theorem buffersOk_latchResponse {s : State} (h : BuffersOk s) (raw : List Byte) :
    BuffersOk (latchResponse raw (s.rxb.writeAll 0 (raw.take 259)) s) :=
  have hlen : 0 + (raw.take 259).length ≤ 259 := by simp
  have hstore := Memory.store_of_le s.rxb hlen
  { txbWf := h.txbWf
    rxbWf := Memory.wf_store h.rxbWf hstore
    txbInside := h.txbInside
    rxbInside := Memory.inside_store h.rxbInside hstore }

/-- Every event keeps the buffers: a command and a received frame are written inside their sizes, `Reset` empties
both, and no other event touches them (R34). -/
theorem Effect.keeps_buffersOk {s t : State} {x : Input} (hs : BuffersOk s) (h : Effect s x t) : BuffersOk t := by
  cases h with
  | presented _ he => exact buffersOk_latchRequest hs (enc_ok_length he) _ _ _ _
  | @answered raw => exact (buffersOk_latchResponse hs raw).of_same_buffers (by simp) (by simp)
  | reset => exact buffersOk_reset.of_same_buffers rfl rfl
  | disabled | refused | sent | failed | unitSet | shown | converted => exact hs.of_same_buffers rfl rfl

/-- Settles O45, by the effect of the one event a step takes. -/
theorem stepKeepsBuffers : Obligations.StepKeepsBuffers := fun _ _ =>
  step_keeps (fun _ _ hs => hs.of_same_buffers rfl rfl) fun _ _ _ hs h => h.keeps_buffersOk hs

end Sys2Proof.Machine

/-! ## Coil packing, and what a bit-read response's padding cannot change (30_encoding.md R104, R112) -/

namespace Sys2Proof.Machine

theorem itemBit_le_one (bits : List Bool) (q i : Nat) : itemBit bits q i ≤ 1 := by
  unfold itemBit
  split
  · exact Bool.toNat_le _
  · exact Nat.zero_le _

theorem itemBit_eq_one {bits : List Bool} {q i : Nat} :
    itemBit bits q i = 1 ↔ i < q ∧ bits.getD i false = true := by
  unfold itemBit
  split <;> simp_all

/-- The eight summands of `P[j]` are its eight binary digits (R104). -/
theorem getLsbD_packByte (bits : List Bool) (q j : Nat) {b : Nat} (hb : b < 8) :
    (packByte bits q j).getLsbD b = decide (itemBit bits q (8 * j + b) = 1) := by
  simp only [packByte, BitVec.getLsbD_ofNat, hb, decide_true, Bool.true_and, Nat.testBit_eq_decide_div_mod_eq,
    decide_eq_decide]
  have hzero : itemBit bits q (8 * j + 0) = itemBit bits q (8 * j) := rfl
  have h0 := itemBit_le_one bits q (8 * j)
  have h1 := itemBit_le_one bits q (8 * j + 1)
  have h2 := itemBit_le_one bits q (8 * j + 2)
  have h3 := itemBit_le_one bits q (8 * j + 3)
  have h4 := itemBit_le_one bits q (8 * j + 4)
  have h5 := itemBit_le_one bits q (8 * j + 5)
  have h6 := itemBit_le_one bits q (8 * j + 6)
  have h7 := itemBit_le_one bits q (8 * j + 7)
  interval_cases b <;> omega

theorem byteAt_packBits {qty : Word} {j : Nat} (bits : List Bool) (hj : j < bitsByteCount qty) :
    byteAt (packBits qty bits) j = packByte bits qty.toNat j := by
  rw [byteAt_eq_getElem (by simpa using hj)]
  simp [packBits]

/-- Item `i` stands at bit `i mod 8` of byte `i div 8` (R68, R104). -/
theorem getLsbD_packBits_item {qty : Word} {i : Nat} (bits : List Bool) (hi : i < qty.toNat) :
    (byteAt (packBits qty bits) (i / 8)).getLsbD (i % 8) = bits.getD i false := by
  rw [byteAt_packBits bits (by rw [bitsByteCount]; omega), getLsbD_packByte bits _ _ (Nat.mod_lt i (by decide)),
    Nat.div_add_mod, Bool.eq_iff_iff, decide_eq_true_eq, itemBit_eq_one, and_iff_right hi]

/-- The bits past the last item are 0 (R104). -/
theorem getLsbD_packBits_padding {qty : Word} {j b : Nat} (bits : List Bool) (hj : j < bitsByteCount qty)
    (hb : b < 8) (hpad : qty.toNat ≤ 8 * j + b) : (byteAt (packBits qty bits) j).getLsbD b = false := by
  rw [byteAt_packBits bits hj, getLsbD_packByte bits _ _ hb, decide_eq_false_iff_not, itemBit_eq_one]
  omega

/-- Reading the packed bytes as a bit-read response reads them gives the items back (R104, R169). -/
theorem unpackBits_packBits {qty : Word} {bits : List Bool} (hlen : bits.length = qty.toNat) :
    unpackBits qty.toNat (packBits qty bits) = bits := by
  refine List.ext_getElem (by simp [hlen]) fun i hi hi' => ?_
  have hitem := getLsbD_packBits_item bits (hlen ▸ hi')
  simpa [unpackBits, hi'] using hitem

/-- Settles O7: each packed byte's binary digits are the items it covers. -/
theorem coilPackingIsBitForBit : Obligations.CoilPackingIsBitForBit := fun qty bits hlen =>
  ⟨length_packBits qty bits, fun _ hi => getLsbD_packBits_item bits hi,
    fun _ _ hj hb hpad => getLsbD_packBits_padding bits hj hb hpad, unpackBits_packBits hlen⟩

theorem byteAt_append_left {l : List Byte} {k : Nat} (hk : k < l.length) (l' : List Byte) :
    byteAt (l ++ l') k = byteAt l k := by
  simp [byteAt, List.getElem?_append_left hk]

theorem byteAt_append_length (l : List Byte) (x : Byte) : byteAt (l ++ [x]) l.length = x := by
  simp [byteAt]

/-- Lines 1 to 7 of R160 look at the size and at the first nine bytes of a frame, so beyond these only the body rule
can tell two frames apart. -/
theorem decWith_congr {body : Pending → List Byte → Except ProtoDetail DecResult} {p : Pending}
    {raw raw' : List Byte} (hlen : raw.length = raw'.length) (hhead : ∀ k < 9, byteAt raw k = byteAt raw' k)
    (hbody : body p raw = body p raw') : decWith body p raw = decWith body p raw' := by
  have hword : ∀ k < 8, wordAt raw k = wordAt raw' k := fun k hk => by
    rw [wordAt, wordAt, hhead k (by omega), hhead (k + 1) (by omega)]
  have hheader : headerError p raw = headerError p raw' := by
    simp only [headerError, hlen, hword 0 (by omega), hword 2 (by omega), hword 4 (by omega), hhead 6 (by omega)]
  have hexc : bodyExc raw = bodyExc raw' := by simp only [bodyExc, hlen, hhead 8 (by omega)]
  simp only [decWith, hheader, hexc, hhead 7 (by omega), hbody]

/-- A bit-read body depends on its frame's size, its `byteCount` and its items' bits only (R169). -/
theorem bodyBits_congr {p : Pending} {raw raw' : List Byte} (hlen : raw.length = raw'.length)
    (hcount : byteAt raw 8 = byteAt raw' 8)
    (hitems : ∀ i < p.qv.toNat,
      (byteAt raw (9 + i / 8)).getLsbD (i % 8) = (byteAt raw' (9 + i / 8)).getLsbD (i % 8)) :
    bodyBits p raw = bodyBits p raw' := by
  have hfits : readBodyFits (bitsByteCount p.qv) raw = readBodyFits (bitsByteCount p.qv) raw' := by
    simp only [readBodyFits, hlen, hcount]
  have hunpack : unpackBits p.qv.toNat (raw.drop 9) = unpackBits p.qv.toNat (raw'.drop 9) := by
    refine List.map_congr_left fun i hi => ?_
    rw [byteAt_drop, byteAt_drop]
    exact hitems i (List.mem_range.1 hi)
  simp only [bodyBits, hfits, hunpack]

/-- The body rule of the two bit reads (R169, R170). -/
theorem bodyOf_bitRead {fc : Byte} (h : fc = 0x01 ∨ fc = 0x02) : bodyOf fc = bodyBits := by
  rcases h with rfl | rfl <;> rfl

/-- Settles O25: an item lies either in a byte that the frames share, or among the item bits of the last byte. -/
theorem paddingBitsIgnored : Obligations.PaddingBitsIgnored := by
  intro p front x y hfc hlen hqv hlast
  have hsame : ∀ k < front.length, byteAt (front ++ [x]) k = byteAt (front ++ [y]) k := fun k hk => by
    rw [byteAt_append_left hk, byteAt_append_left hk]
  have hlength : (front ++ [x]).length = (front ++ [y]).length := by simp
  rw [dec, dec, bodyOf_bitRead hfc]
  refine decWith_congr hlength (fun k hk => hsame k (by omega)) ?_
  refine bodyBits_congr hlength (hsame 8 (by omega)) fun i hi => ?_
  by_cases hk : 9 + i / 8 < front.length
  · rw [hsame _ hk]
  · have hend : 9 + i / 8 = front.length := by omega
    rw [hend, byteAt_append_length, byteAt_append_length]
    exact hlast _ (Nat.mod_lt i (by decide)) (by omega)

end Sys2Proof.Machine

/-! ## The rows of the opcode table that frames match (30_encoding.md R107) -/

namespace Sys2Proof.Machine

/-- A frame matches a row of variable `length` by its protocol identifier and its function code (R107). -/
theorem matchesFrame_variable {raw : List Byte} {f : Byte} (hproto : wordAt raw 2 = config.protocolId)
    (h7 : byteAt raw 7 = f) : TableRow.matchesFrame ⟨f.setWidth 64, variableMask⟩ raw = true := by
  have h2 : be16 (byteAt raw 2) (byteAt raw 3) = 0 := hproto
  rw [TableRow.matchesFrame, first8, h2, h7]
  exact decide_eq_true (Laws.first8_variable _ _ _ _ _ _)

/-- A frame matches a row of fixed size if its `length` field is 6 too (R107). -/
theorem matchesFrame_fixed {raw : List Byte} {f : Byte} (hproto : wordAt raw 2 = config.protocolId)
    (hlength : wordAt raw 4 = 6) (h7 : byteAt raw 7 = f) :
    TableRow.matchesFrame ⟨f.setWidth 64 ||| 0x60000, fixedMask⟩ raw = true := by
  have h2 : be16 (byteAt raw 2) (byteAt raw 3) = 0 := hproto
  have h4 : be16 (byteAt raw 4) (byteAt raw 5) = 6 := hlength
  rw [TableRow.matchesFrame, first8, h2, h4, h7]
  exact decide_eq_true (Laws.first8_fixed _ _ _ _)

end Sys2Proof.Machine

/-! ## Response frames and their instructions, in both directions (30_encoding.md R107, R110) -/

namespace Sys2Proof.Machine

@[simp] theorem pendFcOf_rspRow (r : RspFrame) (fc : FunctionCode) : pendFcOf (rspRow r fc) = fc.toByte := by
  cases fc <;> rfl

@[simp] theorem pendFcOf_excRow (r : RspFrame) (fc : FunctionCode) : pendFcOf (excRow r fc) = fc.toByte := by
  cases fc <;> rfl

theorem encode_rspRow (t : Word) (u : Byte) (r : RspFrame) (fc : FunctionCode) :
    encode t u (rspRow r fc) = .response (rspFrame fc.toByte r) := by
  cases fc <;> rfl

theorem encode_excRow (t : Word) (u : Byte) (r : RspFrame) (fc : FunctionCode) :
    encode t u (excRow r fc) = .response (rspFrame (fc.toByte ||| 0x80) r) := by
  cases fc <;> rfl

/-- A frame with a function code's own number is its normal-response row if the row can carry it (R107, R110). -/
theorem decodeResponse_rspRow {raw : List Byte} {fc : FunctionCode} (hlen : 8 ≤ raw.length)
    (hproto : wordAt raw 2 = config.protocolId) (h7 : byteAt raw 7 = fc.toByte) :
    decodeResponse fc.toByte raw =
      if (rspRow (rspFields raw) fc).wellFormed then .ok (rspRow (rspFields raw) fc) else .error .length := by
  rw [decodeResponse, if_neg (Nat.not_lt.2 hlen), if_neg (not_not_intro hproto), ofByte?_toByte]
  simp only [h7, if_neg (or_0x80_ne fc).symm, if_true]

/-- A frame with bit 7 set in a function code's number is its exception row, whatever its body (R107, R110). -/
theorem decodeResponse_excRow {raw : List Byte} {fc : FunctionCode} (hlen : 8 ≤ raw.length)
    (hproto : wordAt raw 2 = config.protocolId) (h7 : byteAt raw 7 = (fc.toByte ||| 0x80)) :
    decodeResponse fc.toByte raw = .ok (excRow (rspFields raw) fc) := by
  rw [decodeResponse, if_neg (Nat.not_lt.2 hlen), if_neg (not_not_intro hproto), ofByte?_toByte]
  simp only [h7, if_true]

/-- A well-formed normal-response row comes back from its frame. -/
theorem decode_encode_rspRow (t : Word) (u : Byte) {r : RspFrame} (fc : FunctionCode)
    (hwf : (rspRow r fc).wellFormed = true) :
    decode (pendFcOf (rspRow r fc)) (encode t u (rspRow r fc)) = .ok (rspRow r fc) := by
  obtain ⟨-, hproto, -, -, h7⟩ := rspFrame_fields fc.toByte r
  rw [pendFcOf_rspRow, encode_rspRow, decode, decodeResponse_rspRow (by simp) hproto h7, rspFields_rspFrame,
    if_pos hwf]

/-- An exception row comes back from its frame. -/
theorem decode_encode_excRow (t : Word) (u : Byte) (r : RspFrame) (fc : FunctionCode) :
    decode (pendFcOf (excRow r fc)) (encode t u (excRow r fc)) = .ok (excRow r fc) := by
  obtain ⟨-, hproto, -, -, h7⟩ := rspFrame_fields (fc.toByte ||| 0x80) r
  rw [pendFcOf_excRow, encode_excRow, decode, decodeResponse_excRow (by simp) hproto h7, rspFields_rspFrame]

/-- An exception frame matches its row by its function code alone (R107). -/
theorem excRow_matches {raw : List Byte} {fc : FunctionCode} (hproto : wordAt raw 2 = config.protocolId)
    (h7 : byteAt raw 7 = (fc.toByte ||| 0x80)) (r : RspFrame) :
    ∃ row, tableRow (excRow r fc) = some row ∧ row.matchesFrame raw = true :=
  ⟨⟨(fc.toByte ||| 0x80).setWidth 64, variableMask⟩, by cases fc <;> rfl, matchesFrame_variable hproto h7⟩

/-- A read response matches its row by its function code, a write echo by its `length` too (R107). -/
theorem rspRow_matches {raw : List Byte} {fc : FunctionCode} (hproto : wordAt raw 2 = config.protocolId)
    (h7 : byteAt raw 7 = fc.toByte) (hwf : (rspRow (rspFields raw) fc).wellFormed = true) :
    ∃ row, tableRow (rspRow (rspFields raw) fc) = some row ∧ row.matchesFrame raw = true := by
  cases fc
  case readCoils | readDiscreteInputs | readHoldingRegisters | readInputRegisters =>
    exact ⟨_, rfl, matchesFrame_variable hproto h7⟩
  all_goals exact ⟨_, rfl, matchesFrame_fixed hproto (of_decide_eq_true hwf) h7⟩

/-- Settles O2: a received frame is the response frame of its own fields, so the row that the decoder finds encodes to
it. -/
theorem responseDecodingLosesNothing : Obligations.ResponseDecodingLosesNothing := by
  intro t u e raw i h
  obtain ⟨hlen, hproto, fc, rfl, ⟨h7, rfl⟩ | ⟨h7, rfl⟩⟩ := decodeResponse_ok h
  · exact ⟨pendFcOf_excRow _ fc, by rw [encode_excRow, ← h7, rspFrame_rspFields hlen hproto],
      excRow_matches hproto h7 _⟩
  · have hwf : (rspRow (rspFields raw) fc).wellFormed = true := by
      by_contra hnot
      rw [decodeResponse_rspRow hlen hproto h7, if_neg hnot] at h
      cases h
    exact ⟨pendFcOf_rspRow _ fc, by rw [encode_rspRow, ← h7, rspFrame_rspFields hlen hproto],
      rspRow_matches hproto h7 hwf⟩

end Sys2Proof.Machine

/-! ## Request frames and their instructions, in both directions (30_encoding.md R93 to R98, R108) -/

namespace Sys2Proof.Machine

/-- What a request frame of function code `fc` is read as, once its header has been checked (R93 to R95). -/
def requestArm (raw : List Byte) : FunctionCode → Except DecodeError (Instr × List Byte)
  | .readCoils => decodeFixed raw fun v => .ok (.readCoils (wordAt raw 8) v)
  | .readDiscreteInputs => decodeFixed raw fun v => .ok (.readDiscreteInputs (wordAt raw 8) v)
  | .readHoldingRegisters => decodeFixed raw fun v => .ok (.readHoldingRegisters (wordAt raw 8) v)
  | .readInputRegisters => decodeFixed raw fun v => .ok (.readInputRegisters (wordAt raw 8) v)
  | .writeSingleCoil => decodeFixed raw fun v => decodeCoil (wordAt raw 8) v
  | .writeSingleRegister => decodeFixed raw fun v => .ok (.writeSingleRegister (wordAt raw 8) v)
  | .writeMultipleCoils =>
    decodeMulti raw (bitsByteCount (wordAt raw 10))
      (.writeMultipleCoils (wordAt raw 8) (wordAt raw 10) (unpackBits (wordAt raw 10).toNat (raw.drop 13)))
  | .writeMultipleRegisters =>
    decodeMulti raw (regsByteCount (wordAt raw 10))
      (.writeMultipleRegisters (wordAt raw 8) (wordAt raw 10) (unpackWords (wordAt raw 10).toNat (raw.drop 13)))

/-- A request row is read behind a whole header with protocol identifier 0 and one of the eight codes (R90, R91,
R106). -/
theorem decodeRequestRow_ok {raw : List Byte} {x : Instr × List Byte} :
    decodeRequestRow raw = .ok x ↔
      12 ≤ raw.length ∧ wordAt raw 2 = config.protocolId ∧
        ∃ fc : FunctionCode, byteAt raw 7 = fc.toByte ∧ requestArm raw fc = .ok x := by
  constructor
  · intro h
    unfold decodeRequestRow at h
    split at h
    · cases h
    rename_i hlen
    split at h
    · cases h
    rename_i hproto
    refine ⟨Nat.le_of_not_lt hlen, Decidable.not_not.1 hproto, ?_⟩
    rcases hfc : FunctionCode.ofByte? (byteAt raw 7) with _ | fc
    · rw [hfc] at h; cases h
    · rw [hfc] at h
      exact ⟨fc, (toByte_of_ofByte? hfc).symm, by cases fc <;> exact h⟩
  · rintro ⟨hlen, hproto, fc, h7, h⟩
    rw [decodeRequestRow, if_neg (Nat.not_lt.2 hlen), if_neg (not_not_intro hproto), h7, ofByte?_toByte]
    cases fc <;> exact h

/-- A frame of fixed size has `length` 6 and twelve bytes (R93, R108). -/
theorem decodeFixed_ok {raw rest : List Byte} {build : Word → Except DecodeError Instr} {i : Instr} :
    decodeFixed raw build = .ok (i, rest) ↔
      wordAt raw 4 = 6 ∧ build (wordAt raw 10) = .ok i ∧ rest = raw.drop 12 := by
  unfold decodeFixed
  by_cases h4 : wordAt raw 4 = 6
  · rw [if_pos h4]
    cases build (wordAt raw 10) <;> simp [h4, Except.map, eq_comm]
  · rw [if_neg h4]
    simp only [h4, false_and, reduceCtorEq]

/-- A multiple write has the `byteCount` of its quantity and 13 + `byteCount` bytes (R94, R95, R108). -/
theorem decodeMulti_ok {raw rest : List Byte} {bc : Nat} {i j : Instr} :
    decodeMulti raw bc j = .ok (i, rest) ↔
      (byteAt raw 12).toNat = bc ∧ 13 + bc ≤ raw.length ∧ i = j ∧ rest = raw.drop (13 + bc) := by
  unfold decodeMulti
  by_cases hbc : (byteAt raw 12).toNat = bc <;> by_cases hlen : 13 + bc ≤ raw.length <;>
    simp [hbc, hlen, eq_comm]

/-- The two values a single coil can be written with (R103). -/
theorem decodeCoil_ok {addr v : Word} {i : Instr} :
    decodeCoil addr v = .ok i ↔ ∃ coil, v = coilValue coil ∧ i = .writeSingleCoil addr coil := by
  unfold decodeCoil
  by_cases hon : v = 0xFF00
  · subst hon; simp [coilValue, eq_comm]
  · by_cases hoff : v = 0x0000
    · subst hoff; simp [coilValue, eq_comm]
    · have hnot : ¬∃ coil, v = coilValue coil ∧ i = .writeSingleCoil addr coil := by
        rintro ⟨_ | _, hv, -⟩
        · exact hoff hv
        · exact hon hv
      simp only [if_neg hon, if_neg hoff, hnot, reduceCtorEq]

/-- The size of a request frame by its function code (R108). -/
theorem requestSize_eq (raw : List Byte) :
    requestSize raw =
      if byteAt raw 7 = 0x0F ∨ byteAt raw 7 = 0x10 then 13 + (byteAt raw 12).toNat else 12 := by
  unfold requestSize
  rcases hfc : FunctionCode.ofByte? (byteAt raw 7) with _ | fc
  · have hnot : ¬(byteAt raw 7 = 0x0F ∨ byteAt raw 7 = 0x10) := by
      rintro (h | h) <;> rw [h] at hfc <;> cases hfc
    rw [if_neg hnot]
  · rw [← toByte_of_ofByte? hfc]
    cases fc <;> rfl

/-- The two formats a request can be read in: one of a fixed size, and one that its `byteCount` ends (R93 to R95,
R107, R108). -/
theorem requestArm_ok {raw rest : List Byte} {fc : FunctionCode} {i : Instr}
    (h : requestArm raw fc = .ok (i, rest)) :
    (encodeCommand i).map (·.op) = some fc.toByte ∧
      ((wordAt raw 4 = 6 ∧ rest = raw.drop 12 ∧ ¬(fc.toByte = 0x0F ∨ fc.toByte = 0x10) ∧
          tableRow i = some ⟨fc.toByte.setWidth 64 ||| 0x60000, fixedMask⟩) ∨
        (13 + (byteAt raw 12).toNat ≤ raw.length ∧ rest = raw.drop (13 + (byteAt raw 12).toNat) ∧
          (fc.toByte = 0x0F ∨ fc.toByte = 0x10) ∧ tableRow i = some ⟨fc.toByte.setWidth 64, variableMask⟩)) := by
  cases fc
  case writeSingleCoil =>
    obtain ⟨h4, hi, hrest⟩ := decodeFixed_ok.1 h
    obtain ⟨coil, -, rfl⟩ := decodeCoil_ok.1 hi
    exact ⟨rfl, .inl ⟨h4, hrest, by decide, rfl⟩⟩
  case writeMultipleCoils | writeMultipleRegisters =>
    obtain ⟨hbc, hlen, rfl, hrest⟩ := decodeMulti_ok.1 h
    exact ⟨rfl, .inr ⟨hbc ▸ hlen, hbc ▸ hrest, by decide, rfl⟩⟩
  all_goals
    rw [requestArm, decodeFixed_ok] at h
    obtain ⟨h4, hi, hrest⟩ := h
    obtain rfl := Except.ok.inj hi
    exact ⟨rfl, .inl ⟨h4, hrest, by decide, rfl⟩⟩

/-- Settles O49: the size that the row's format gives is the one the `length` field gives. -/
theorem requestDecodingAgreesWithLength : Obligations.RequestDecodingAgreesWithLength := by
  intro raw rest i h
  obtain ⟨hrow, hsize⟩ := decodeRequest_ok.1 h
  obtain ⟨hlen, hproto, fc, h7, harm⟩ := decodeRequestRow_ok.1 hrow
  obtain ⟨hop, hfmt⟩ := requestArm_ok harm
  rw [Nat.add_comm, requestSize_eq] at hsize
  rcases hfmt with ⟨h4, hrest, hfc, htable⟩ | ⟨hwhole, hrest, hfc, htable⟩
  · have hend : 6 + (wordAt raw 4).toNat = 12 := by rw [hsize, h7, if_neg hfc]
    exact ⟨hend.trans_le hlen, hend ▸ hrest, hsize, h7 ▸ hop, _, htable, matchesFrame_fixed hproto h4 h7⟩
  · have hend : 6 + (wordAt raw 4).toNat = 13 + (byteAt raw 12).toNat := by rw [hsize, h7, if_pos hfc]
    exact ⟨hend.trans_le hwhole, hend ▸ hrest, hsize, h7 ▸ hop, _, htable, matchesFrame_variable hproto h7⟩

theorem decode_request {e : Byte} {frame rest : List Byte} {i : Instr} (h : decodeRequest frame = .ok (i, rest)) :
    decode e (.request frame) = .ok i := by
  simp only [decode, h, Except.map]

/-- A frame of fixed size comes back as what its function code builds from its two operands (R93). -/
theorem decode_reqFixed (e : Byte) (t : Word) (u : Byte) {fc : FunctionCode} {a v : Word} {i : Instr}
    (build : Word → Word → Except DecodeError Instr) (hfc : ¬(fc.toByte = 0x0F ∨ fc.toByte = 0x10))
    (harm : ∀ raw, requestArm raw fc = decodeFixed raw (build (wordAt raw 8))) (hbuild : build a v = .ok i) :
    decode e (.request (reqFixed config t u fc.toByte a v)) = .ok i := by
  obtain ⟨-, hproto, h4, -, h7, h8, -⟩ := header_fields config t u 6 fc.toByte a [hi v, lo v]
  rw [← reqFixed] at hproto h4 h7 h8
  have hread : requestArm (reqFixed config t u fc.toByte a v) fc = .ok (i, []) := by
    rw [harm, h8]
    exact decodeFixed_ok.2 ⟨h4, by rwa [wordAt_reqFixed_ten], rfl⟩
  refine decode_request (decodeRequest_ok.2 ⟨decodeRequestRow_ok.2 ⟨le_rfl, hproto, fc, h7, hread⟩, ?_⟩)
  rw [requestSize_eq, h4, h7, if_neg hfc]
  rfl

/-- The five rows of fixed size whose second operand can have every value (R93). -/
theorem decode_reqFixed_row (e : Byte) (t : Word) (u : Byte) (a v : Word) (fc : FunctionCode)
    (row : Word → Word → Instr) (hfc : ¬(fc.toByte = 0x0F ∨ fc.toByte = 0x10))
    (harm : ∀ raw, requestArm raw fc = decodeFixed raw fun v => .ok (row (wordAt raw 8) v)) :
    decode e (.request (reqFixed config t u fc.toByte a v)) = .ok (row a v) :=
  decode_reqFixed e t u (fun a v => .ok (row a v)) hfc harm rfl

/-- The two formats with a payload, which differ in the code and the payload only (R94, R95). -/
def reqMulti (t : Word) (u f : Byte) (a qty : Word) (payload : List Byte) : List Byte :=
  header config t u (7 + payload.length) f a ++
    (hi qty :: lo qty :: BitVec.ofNat 8 payload.length :: payload)

theorem reqMCoils_eq (t : Word) (u : Byte) (a qty : Word) (bits : List Bool) :
    reqMCoils config t u a qty bits = reqMulti t u 0x0F a qty (packBits qty bits) := by
  simp [reqMCoils, reqMulti]

theorem reqMRegs_eq (t : Word) (u : Byte) (a qty : Word) {words : List Word} (h : words.length = qty.toNat) :
    reqMRegs config t u a qty words = reqMulti t u 0x10 a qty (packWords words) := by
  simp [reqMRegs, reqMulti, regsByteCount, h]

/-- The fields of a multiple write (R94, R95). -/
theorem reqMulti_fields (t : Word) (u f : Byte) (a qty : Word) (payload : List Byte) :
    wordAt (reqMulti t u f a qty payload) 8 = a ∧ wordAt (reqMulti t u f a qty payload) 10 = qty ∧
    byteAt (reqMulti t u f a qty payload) 12 = BitVec.ofNat 8 payload.length ∧
    (reqMulti t u f a qty payload).drop 13 = payload ∧
    (reqMulti t u f a qty payload).length = 13 + payload.length := by
  refine ⟨be16_hi_lo a, be16_hi_lo qty, rfl, rfl, ?_⟩
  simp [reqMulti, header]
  omega

/-- A multiple write whose one-byte `byteCount` holds its payload's size comes back as what its function code builds
from it (R94, R95, R97, R98). -/
theorem decode_reqMulti (e : Byte) (t : Word) (u : Byte) {fc : FunctionCode} {a qty : Word} {payload : List Byte}
    {i : Instr} (hfc : fc.toByte = 0x0F ∨ fc.toByte = 0x10) (hfit : payload.length ≤ 255)
    (harm : requestArm (reqMulti t u fc.toByte a qty payload) fc =
      decodeMulti (reqMulti t u fc.toByte a qty payload) payload.length i) :
    decode e (.request (reqMulti t u fc.toByte a qty payload)) = .ok i := by
  obtain ⟨-, hproto, h4, -, h7, -, -⟩ := header_fields config t u (7 + payload.length) fc.toByte a
    (hi qty :: lo qty :: BitVec.ofNat 8 payload.length :: payload)
  rw [← reqMulti] at hproto h4 h7
  obtain ⟨-, -, h12, -, hlen⟩ := reqMulti_fields t u fc.toByte a qty payload
  have hcount : (BitVec.ofNat 8 payload.length).toNat = payload.length := by
    rw [BitVec.toNat_ofNat, Nat.mod_eq_of_lt (by omega)]
  have hread : requestArm (reqMulti t u fc.toByte a qty payload) fc = .ok (i, []) := by
    rw [harm]
    exact decodeMulti_ok.2 ⟨by rw [h12, hcount], hlen.ge, rfl, (List.drop_of_length_le hlen.le).symm⟩
  refine decode_request (decodeRequest_ok.2 ⟨decodeRequestRow_ok.2 ⟨by omega, hproto, fc, h7, hread⟩, ?_⟩)
  rw [requestSize_eq, h4, h7, if_pos hfc, h12, hcount, BitVec.toNat_ofNat, Nat.mod_eq_of_lt (by omega)]
  omega

/-- A well-formed coil list comes back from its request frame (R94, R104). -/
theorem decode_reqMCoils (e : Byte) (t : Word) (u : Byte) (a : Word) {qty : Word} {bits : List Bool}
    (hwf : coilsFit qty bits = true) :
    decode e (.request (reqMCoils config t u a qty bits)) = .ok (.writeMultipleCoils a qty bits) := by
  rw [coilsFit, Bool.and_eq_true, decide_eq_true_eq, decide_eq_true_eq] at hwf
  obtain ⟨hlen, hmax⟩ := hwf
  obtain ⟨h8, h10, -, hdrop, -⟩ := reqMulti_fields t u 0x0F a qty (packBits qty bits)
  rw [reqMCoils_eq]
  refine decode_reqMulti e t u (fc := .writeMultipleCoils) (.inl rfl) ?_ ?_
  · rw [length_packBits, bitsByteCount]
    omega
  · simp only [requestArm, FunctionCode.toByte]
    rw [h8, h10, hdrop, unpackBits_packBits hlen, length_packBits]

/-- A well-formed word list comes back from its request frame (R95, R105). -/
theorem decode_reqMRegs (e : Byte) (t : Word) (u : Byte) (a : Word) {qty : Word} {words : List Word}
    (hwf : wordsFit qty words = true) :
    decode e (.request (reqMRegs config t u a qty words)) = .ok (.writeMultipleRegisters a qty words) := by
  rw [wordsFit, Bool.and_eq_true, decide_eq_true_eq, decide_eq_true_eq] at hwf
  obtain ⟨hlen, hmax⟩ := hwf
  obtain ⟨h8, h10, -, hdrop, -⟩ := reqMulti_fields t u 0x10 a qty (packWords words)
  have hunpack : unpackWords qty.toNat (packWords words) = words := by
    simpa [hlen] using unpackWords_packWords words []
  rw [reqMRegs_eq t u a qty hlen]
  refine decode_reqMulti e t u (fc := .writeMultipleRegisters) (.inr rfl) ?_ ?_
  · rw [length_packWords]
    omega
  · simp only [requestArm, FunctionCode.toByte]
    rw [h8, h10, hdrop, hunpack, length_packWords, hlen, regsByteCount]

/-- Settles O1: each format's fields are read back from where it puts them. -/
theorem decodeAfterEncode : Obligations.DecodeAfterEncode := by
  intro t u i hwf
  cases i with
  | readCoils a q => exact decode_reqFixed_row _ t u a q .readCoils .readCoils (by decide) fun _ => rfl
  | readDiscreteInputs a q =>
    exact decode_reqFixed_row _ t u a q .readDiscreteInputs .readDiscreteInputs (by decide) fun _ => rfl
  | readHoldingRegisters a q =>
    exact decode_reqFixed_row _ t u a q .readHoldingRegisters .readHoldingRegisters (by decide) fun _ => rfl
  | readInputRegisters a q =>
    exact decode_reqFixed_row _ t u a q .readInputRegisters .readInputRegisters (by decide) fun _ => rfl
  | writeSingleRegister a v =>
    exact decode_reqFixed_row _ t u a v .writeSingleRegister .writeSingleRegister (by decide) fun _ => rfl
  | writeSingleCoil a coil =>
    exact decode_reqFixed _ t u (fc := .writeSingleCoil) decodeCoil (by decide) (fun _ => rfl)
      (decodeCoil_ok.2 ⟨coil, rfl, rfl⟩)
  | writeMultipleCoils a q bits => exact decode_reqMCoils _ t u a hwf
  | writeMultipleRegisters a q words => exact decode_reqMRegs _ t u a hwf
  | readCoilsRsp r => exact decode_encode_rspRow t u .readCoils hwf
  | readDiscreteInputsRsp r => exact decode_encode_rspRow t u .readDiscreteInputs hwf
  | readHoldingRegistersRsp r => exact decode_encode_rspRow t u .readHoldingRegisters hwf
  | readInputRegistersRsp r => exact decode_encode_rspRow t u .readInputRegisters hwf
  | writeSingleCoilRsp r => exact decode_encode_rspRow t u .writeSingleCoil hwf
  | writeSingleRegisterRsp r => exact decode_encode_rspRow t u .writeSingleRegister hwf
  | writeMultipleCoilsRsp r => exact decode_encode_rspRow t u .writeMultipleCoils hwf
  | writeMultipleRegistersRsp r => exact decode_encode_rspRow t u .writeMultipleRegisters hwf
  | readCoilsExc r => exact decode_encode_excRow t u r .readCoils
  | readDiscreteInputsExc r => exact decode_encode_excRow t u r .readDiscreteInputs
  | readHoldingRegistersExc r => exact decode_encode_excRow t u r .readHoldingRegisters
  | readInputRegistersExc r => exact decode_encode_excRow t u r .readInputRegisters
  | writeSingleCoilExc r => exact decode_encode_excRow t u r .writeSingleCoil
  | writeSingleRegisterExc r => exact decode_encode_excRow t u r .writeSingleRegister
  | writeMultipleCoilsExc r => exact decode_encode_excRow t u r .writeMultipleCoils
  | writeMultipleRegistersExc r => exact decode_encode_excRow t u r .writeMultipleRegisters
  | r2fLH | r2fHL | s16 => rfl

/-- Settles O3. The direction in which a word is read is the model's choice where the bits do not tell it (log entry
8), and a table word leaves `length` open where the row's mask does (log entry 17): so `…000F` is a multiple write
with `length` 0. -/
theorem tableWordsDecode : Obligations.TableWordsDecode := ⟨rfl, rfl, rfl, rfl, rfl⟩

end Sys2Proof.Machine

/-! ## Sizes and `length` fields of the request frames (40_request_encode.md R140, R141) -/

namespace Sys2Proof.Machine

theorem wordAt_reqFixed_four (k : Config) (t : Word) (u f : Byte) (a v : Word) :
    (wordAt (reqFixed k t u f a v) 4).toNat = 6 := by
  obtain ⟨-, -, h4, -⟩ := header_fields k t u 6 f a [hi v, lo v]
  rw [reqFixed, h4]
  rfl

theorem wordAt_reqMCoils_four (k : Config) (t : Word) (u : Byte) (a qty : Word) (bits : List Bool) :
    (wordAt (reqMCoils k t u a qty bits) 4).toNat = 7 + bitsByteCount qty := by
  obtain ⟨-, -, h4, -⟩ := header_fields k t u (7 + bitsByteCount qty) 0x0F a
    ([hi qty, lo qty, BitVec.ofNat 8 (bitsByteCount qty)] ++ packBits qty bits)
  have hfit : 7 + bitsByteCount qty < 2 ^ 16 := by
    rw [bitsByteCount]
    omega
  rw [reqMCoils, List.append_assoc, h4, BitVec.toNat_ofNat, Nat.mod_eq_of_lt hfit]

/-- Where one byte counts the words' bytes, the `length` field holds the rest (R5, R95). -/
theorem wordAt_reqMRegs_four (k : Config) (t : Word) (u : Byte) (a : Word) {qty : Word} (words : List Word)
    (hqty : qty.toNat ≤ 127) : (wordAt (reqMRegs k t u a qty words) 4).toNat = 7 + regsByteCount qty := by
  obtain ⟨-, -, h4, -⟩ := header_fields k t u (7 + regsByteCount qty) 0x10 a
    ([hi qty, lo qty, BitVec.ofNat 8 (regsByteCount qty)] ++ packWords words)
  have hfit : 7 + regsByteCount qty < 2 ^ 16 := by
    rw [regsByteCount]
    omega
  rw [reqMRegs, List.append_assoc, h4, BitVec.toNat_ofNat, Nat.mod_eq_of_lt hfit]

/-- The three formats of a request with their sizes and `length` fields (R93 to R95). -/
theorem enc_ok_size {k : Config} {t : Word} {u : Byte} {c : Command} {frame : List Byte}
    (hk : k.limitsFit = true) (h : enc k t u c = .ok frame) :
    (c.op ≠ 0x0F ∧ c.op ≠ 0x10 ∧ frame.length = 12 ∧ (wordAt frame 4).toNat = 6) ∨
    (c.op = 0x0F ∧ 1 ≤ c.qty.toNat ∧ c.qty.toNat ≤ k.maxWrBits ∧
      frame.length = 13 + (c.qty.toNat + 7) / 8 ∧ (wordAt frame 4).toNat = 7 + (c.qty.toNat + 7) / 8) ∨
    (c.op = 0x10 ∧ 1 ≤ c.qty.toNat ∧ c.qty.toNat ≤ k.maxWrRegs ∧
      frame.length = 13 + 2 * c.qty.toNat ∧ (wordAt frame 4).toNat = 7 + 2 * c.qty.toNat) := by
  simp only [Config.limitsFit, Bool.and_eq_true, decide_eq_true_eq] at hk
  obtain ⟨-, hregs⟩ := hk
  rcases enc_ok h with ⟨ho, -, -, rfl⟩ | ⟨ho, -, -, rfl⟩ | ⟨ho, rfl⟩ | ⟨ho, rfl⟩ | ⟨ho, hmin, hmax, -, rfl⟩ |
    ⟨ho, hmin, hmax, hlen, rfl⟩
  · obtain ⟨h15, h16⟩ : c.op ≠ 0x0F ∧ c.op ≠ 0x10 := by rcases ho with ho | ho <;> simp [ho]
    exact .inl ⟨h15, h16, rfl, wordAt_reqFixed_four ..⟩
  · obtain ⟨h15, h16⟩ : c.op ≠ 0x0F ∧ c.op ≠ 0x10 := by rcases ho with ho | ho <;> simp [ho]
    exact .inl ⟨h15, h16, rfl, wordAt_reqFixed_four ..⟩
  · exact .inl ⟨by simp [ho], by simp [ho], rfl, wordAt_reqFixed_four ..⟩
  · exact .inl ⟨by simp [ho], by simp [ho], rfl, wordAt_reqFixed_four ..⟩
  · exact .inr (.inl ⟨ho, hmin, hmax, length_reqMCoils .., wordAt_reqMCoils_four ..⟩)
  · exact .inr (.inr ⟨ho, hmin, hmax, length_reqMRegs _ _ _ _ _ _ hlen,
      wordAt_reqMRegs_four _ _ _ _ _ (hmax.trans hregs)⟩)

/-- Settles O4, format by format. -/
theorem requestLengthFieldCountsTheRest : Obligations.RequestLengthFieldCountsTheRest := by
  intro k t u c frame hk h
  rcases enc_ok_size hk h with ⟨-, -, hlen, h4⟩ | ⟨-, -, -, hlen, h4⟩ | ⟨-, -, -, hlen, h4⟩ <;> omega

/-- Settles O5: `op` selects the format, and the maxima 2000 and 125 bound its size. -/
theorem requestFrameSizes : Obligations.RequestFrameSizes := by
  intro t u c frame h
  rcases enc_ok_size config_limitsFit h with ⟨h15, h16, hlen, h4⟩ | ⟨ho, hmin, hmax, hlen, h4⟩ |
    ⟨ho, hmin, hmax, hlen, h4⟩
  · exact ⟨fun _ => ⟨hlen, h4⟩, fun ho => absurd ho h15, fun ho => absurd ho h16⟩
  · rw [config_maxWrBits] at hmax
    exact ⟨fun hfixed => by simp [ho] at hfixed, fun _ => by omega, fun h16 => by simp [ho] at h16⟩
  · rw [config_maxWrRegs] at hmax
    exact ⟨fun hfixed => by simp [ho] at hfixed, fun h15 => by simp [ho] at h15, fun _ => by omega⟩

end Sys2Proof.Machine

/-! ## `ENC` as a refusal or a frame, and what each depends on (40_request_encode.md R130 to R143) -/

namespace Sys2Proof.Machine

/-- The byte of a reserved `op` is the number of none of the eight codes (R106, R109). -/
theorem ofByte?_eq_none {b : Byte} : FunctionCode.ofByte? b = none ↔ ∀ fc : FunctionCode, b ≠ fc.toByte := by
  constructor
  · rintro h fc rfl
    simp at h
  · exact fun h => Option.eq_none_iff_forall_ne_some.2 fun fc hfc => h fc (toByte_of_ofByte? hfc).symm

/-- An `op` is the number of a function code or reserved (R113). -/
theorem op_cases (b : Byte) : (∃ fc : FunctionCode, b = fc.toByte) ∨ ∀ fc : FunctionCode, b ≠ fc.toByte := by
  by_cases h : ∃ fc : FunctionCode, b = fc.toByte
  · exact .inl h
  · exact .inr (not_exists.1 h)

/-- A reserved `op`, spelled out over the eight codes (R106). -/
theorem forall_ne_toByte {b : Byte} :
    (∀ fc : FunctionCode, b ≠ fc.toByte) ↔
      b ≠ 0x01 ∧ b ≠ 0x02 ∧ b ≠ 0x03 ∧ b ≠ 0x04 ∧ b ≠ 0x05 ∧ b ≠ 0x06 ∧ b ≠ 0x0F ∧ b ≠ 0x10 := by
  constructor
  · exact fun h => ⟨h .readCoils, h .readDiscreteInputs, h .readHoldingRegisters, h .readInputRegisters,
      h .writeSingleCoil, h .writeSingleRegister, h .writeMultipleCoils, h .writeMultipleRegisters⟩
  · rintro ⟨h1, h2, h3, h4, h5, h6, h15, h16⟩ fc
    cases fc <;> assumption

/-- The limit on the quantity of a counted operation; the single writes have no quantity (R131, R136, R137). -/
def quantityMax (k : Config) : FunctionCode → Option Nat
  | .readCoils | .readDiscreteInputs => some k.maxRdBits
  | .readHoldingRegisters | .readInputRegisters => some k.maxRdRegs
  | .writeSingleCoil | .writeSingleRegister => none
  | .writeMultipleCoils => some k.maxWrBits
  | .writeMultipleRegisters => some k.maxWrRegs

/-- The payload of a multiple write has another length than its quantity (R138, R139). -/
def payloadDisagrees (c : Command) : FunctionCode → Bool
  | .writeMultipleCoils => decide (c.bits.length ≠ c.qty.toNat)
  | .writeMultipleRegisters => decide (c.words.length ≠ c.qty.toNat)
  | .readCoils | .readDiscreteInputs | .readHoldingRegisters | .readInputRegisters => false
  | .writeSingleCoil | .writeSingleRegister => false

/-- Why `ENC` refuses a command of this function code, in the priority of R131; neither the identifier nor the unit
nor the address takes part. -/
def requestRefusal (k : Config) (c : Command) (fc : FunctionCode) : Option EncDetail :=
  match quantityMax k fc with
  | none => none
  | some max =>
    if c.qty = 0 then some .quantityZero
    else if max < c.qty.toNat then some .quantityTooLarge
    else if payloadDisagrees c fc then some .payloadLength
    else none

/-- The `length` field of a command's frame (R132 to R139). -/
def requestLength (c : Command) : FunctionCode → Nat
  | .writeMultipleCoils => 7 + bitsByteCount c.qty
  | .writeMultipleRegisters => 7 + regsByteCount c.qty
  | .readCoils | .readDiscreteInputs | .readHoldingRegisters | .readInputRegisters => 6
  | .writeSingleCoil | .writeSingleRegister => 6

/-- The operand at offset 10 of a command's frame (R93 to R95). -/
def requestOperand (c : Command) : FunctionCode → Word
  | .writeSingleCoil => coilValue c.coil
  | .writeSingleRegister => c.value
  | .readCoils | .readDiscreteInputs | .readHoldingRegisters | .readInputRegisters => c.qty
  | .writeMultipleCoils | .writeMultipleRegisters => c.qty

/-- What a command's frame holds from offset 12 on: a multiple write's `byteCount` and items (R94, R95). -/
def requestPayload (c : Command) : FunctionCode → List Byte
  | .writeMultipleCoils => BitVec.ofNat 8 (bitsByteCount c.qty) :: packBits c.qty c.bits
  | .writeMultipleRegisters => BitVec.ofNat 8 (regsByteCount c.qty) :: packWords c.words
  | .readCoils | .readDiscreteInputs | .readHoldingRegisters | .readInputRegisters => []
  | .writeSingleCoil | .writeSingleRegister => []

/-- The frame of a command of this function code, all formats in one (R130). -/
def requestFrame (k : Config) (t : Word) (u : Byte) (c : Command) (fc : FunctionCode) : List Byte :=
  header k t u (requestLength c fc) fc.toByte c.addr ++
    hi (requestOperand c fc) :: lo (requestOperand c fc) :: requestPayload c fc

theorem wordAt_requestFrame_ten (k : Config) (t : Word) (u : Byte) (c : Command) (fc : FunctionCode) :
    wordAt (requestFrame k t u c fc) 10 = requestOperand c fc :=
  be16_hi_lo (requestOperand c fc)

/-- The twelve bytes of a command of fixed size (R93). -/
theorem requestFrame_of_fixed (t : Word) (u : Byte) (c : Command) {fc : FunctionCode}
    (h : ¬(fc.toByte = 0x0F ∨ fc.toByte = 0x10)) :
    requestFrame config t u c fc =
      [hi t, lo t, 0, 0, 0, 6, u, fc.toByte, hi c.addr, lo c.addr, hi (requestOperand c fc),
        lo (requestOperand c fc)] := by
  obtain ⟨hlen, hpayload⟩ : requestLength c fc = 6 ∧ requestPayload c fc = [] := by
    cases fc
    case writeMultipleCoils | writeMultipleRegisters => exact absurd (by decide) h
    all_goals exact ⟨rfl, rfl⟩
  rw [requestFrame, hlen, hpayload]
  rfl

/-- `ENC` on a reserved `op` (R143). -/
theorem enc_of_reserved {c : Command} (h : ∀ fc : FunctionCode, c.op ≠ fc.toByte) (k : Config) (t : Word) (u : Byte) :
    enc k t u c = .error .unsupportedFunction := by
  simp only [enc, ofByte?_eq_none.2 h]

/-- `ENC` on one of the eight codes: the refusal if there is one, else the frame (R131 to R139). -/
theorem enc_of_op {c : Command} {fc : FunctionCode} (h : c.op = fc.toByte) (k : Config) (t : Word) (u : Byte) :
    enc k t u c = (requestRefusal k c fc).elim (.ok (requestFrame k t u c fc)) .error := by
  simp only [enc, h, ofByte?_toByte]
  cases fc
  case writeSingleCoil | writeSingleRegister => rfl
  all_goals
    simp only [encReadCoils, encReadDiscreteInputs, encReadHoldingRegisters, encReadInputRegisters,
      encWriteMultipleCoils, encWriteMultipleRegisters, checkQuantity, requestRefusal, quantityMax, payloadDisagrees,
      decide_eq_true_eq, Bool.false_eq_true, if_false]
    split_ifs <;> rfl

/-- The operations without a quantity are never refused (R136, R137). -/
theorem requestRefusal_uncounted {k : Config} {fc : FunctionCode} (h : quantityMax k fc = none) (c : Command) :
    requestRefusal k c fc = none := by
  simp only [requestRefusal, h]

/-- The refusals of a counted operation: each cause with its detail, each only where no earlier one applies (R131). -/
theorem requestRefusal_counted {k : Config} {fc : FunctionCode} {max : Nat} (h : quantityMax k fc = some max)
    (c : Command) :
    (requestRefusal k c fc = some .quantityZero ↔ c.qty = 0) ∧
    (requestRefusal k c fc = some .quantityTooLarge ↔ c.qty ≠ 0 ∧ max < c.qty.toNat) ∧
    (requestRefusal k c fc = some .payloadLength ↔
      c.qty ≠ 0 ∧ c.qty.toNat ≤ max ∧ payloadDisagrees c fc = true) ∧
    (requestRefusal k c fc = none ↔ c.qty ≠ 0 ∧ c.qty.toNat ≤ max ∧ payloadDisagrees c fc = false) := by
  by_cases hzero : c.qty = 0#16
  · simp [requestRefusal, h, hzero]
  by_cases hlarge : max < c.qty.toNat
  · simp [requestRefusal, h, hzero, hlarge]
  cases hd : payloadDisagrees c fc <;> simp [requestRefusal, h, hzero, hlarge, hd, Nat.le_of_not_lt hlarge]

/-- A function code's refusals are never the two details of other causes (R131, R272). -/
theorem requestRefusal_ne (k : Config) (c : Command) (fc : FunctionCode) :
    requestRefusal k c fc ≠ some .unsupportedFunction ∧ requestRefusal k c fc ≠ some .notTwoWords := by
  unfold requestRefusal
  split
  · simp
  · split_ifs <;> simp

/-- `ENC` reports the refusal and nothing else (R131). -/
theorem enc_eq_error {c : Command} {fc : FunctionCode} (h : c.op = fc.toByte) {k : Config} {t : Word} {u : Byte}
    {d : EncDetail} : enc k t u c = .error d ↔ requestRefusal k c fc = some d := by
  rw [enc_of_op h]
  cases requestRefusal k c fc <;> simp

/-- Request headers differ only at the identifier's bytes 0 and 1 and at the unit's byte 6 (R91, R130). -/
theorem getElem?_header_append (k : Config) (t t' : Word) (u u' : Byte) (len : Nat) (f : Byte) (a : Word)
    (tail : List Byte) {j : Nat} (h0 : j ≠ 0) (h1 : j ≠ 1) (h6 : j ≠ 6) :
    (header k t u len f a ++ tail)[j]? = (header k t' u' len f a ++ tail)[j]? :=
  match j, h0, h1, h6 with
  | 2, _, _, _ | 3, _, _, _ | 4, _, _, _ | 5, _, _, _ => rfl
  | _ + 7, _, _, _ => rfl

/-- Settles O6: the refusal, the length, the operand and the payload are the command's, the header takes the rest. -/
theorem requestFrameDependsOnItsInputs : Obligations.RequestFrameDependsOnItsInputs := by
  intro k t t' u u' c
  rcases op_cases c.op with ⟨fc, ho⟩ | hres
  · rw [enc_of_op ho, enc_of_op ho]
    cases requestRefusal k c fc with
    | some d => rfl
    | none =>
      obtain ⟨htid, -, -, hunit, -⟩ := header_fields k t u (requestLength c fc) fc.toByte c.addr
        (hi (requestOperand c fc) :: lo (requestOperand c fc) :: requestPayload c fc)
      exact ⟨rfl, htid, hunit, fun _ h0 h1 h6 => getElem?_header_append k t t' u u' _ _ _ _ h0 h1 h6⟩
  · rw [enc_of_reserved hres, enc_of_reserved hres]

/-- Settles O8: a reserved `op` has its own detail, a single write none, and a counted operation those of its
refusals. -/
theorem encodingErrorCauses : Obligations.EncodingErrorCauses := by
  intro k t u c reserved counted max disagrees
  rcases op_cases c.op with ⟨fc, ho⟩ | hres
  · obtain ⟨hunsupported, hwords⟩ := requestRefusal_ne k c fc
    have hreserved : ¬reserved := fun h => forall_ne_toByte.2 h fc ho
    have hcounted : counted ↔ quantityMax k fc ≠ none := by
      simp only [counted, hreserved, ho]
      cases fc <;> simp [FunctionCode.toByte, quantityMax]
    have hdisagrees : disagrees ↔ payloadDisagrees c fc = true := by
      simp only [disagrees, ho]
      cases fc <;> simp [FunctionCode.toByte, payloadDisagrees]
    simp only [enc_eq_error ho, hreserved, hunsupported, hwords, ne_eq, not_false_iff, and_true, true_and, hcounted,
      hdisagrees]
    rcases hmax : quantityMax k fc with _ | m
    · simp [requestRefusal_uncounted hmax]
    · obtain ⟨hzero, hlarge, hpayload, -⟩ := requestRefusal_counted hmax c
      have hm : max = m := by
        simp only [max, ho]
        cases fc
        case writeSingleCoil | writeSingleRegister => cases hmax
        all_goals exact Option.some.inj hmax
      simp [hzero, hlarge, hpayload, hm]
  · have hreserved : reserved := forall_ne_toByte.1 hres
    simp [enc_of_reserved hres, counted, hreserved]

end Sys2Proof.Machine

/-! ## The request instructions in IDLE: refused or presented (44_dispatcher.md R232, R240 to R247) -/

namespace Sys2Proof.Machine

theorem hi_coilValue (coil : Bool) : hi (coilValue coil) = if coil then 0xFF else 0x00 := by
  cases coil <;> rfl

theorem lo_coilValue (coil : Bool) : lo (coilValue coil) = 0x00 := by
  cases coil <;> rfl

/-- The model's packed byte is the sum of R104. -/
theorem packByte_eq_coilByte (bits : List Bool) (q j : Nat) : packByte bits q j = coilByte q bits j := by
  simp [packByte, coilByte, itemBit, List.range_succ, ite_mul, Nat.add_assoc]

/-- A request that `ENC` refuses, in IDLE (R232, R280). -/
theorem exec_refused {i : Instr} {c : Command} {fc : FunctionCode} {d : EncDetail} {s : State}
    (hi : encodeCommand i = some c) (ho : c.op = fc.toByte) (hp : s.phase = .idle)
    (hr : requestRefusal config c fc = some d) :
    exec i s = .next (encodingFailed s (encCode d) (kindOfOp c.op)) := by
  rw [exec_request hi, enc_of_op ho, hr]
  exact command_refuses c.op c.addr (expectOf c) d hp

/-- A request that `ENC` does not refuse, in IDLE (R232). -/
theorem exec_accepted {i : Instr} {c : Command} {fc : FunctionCode} {s : State}
    (hi : encodeCommand i = some c) (ho : c.op = fc.toByte) (hp : s.phase = .idle)
    (hr : requestRefusal config c fc = none) :
    exec i s = .next (accepted s c.op c.addr (requestOperand c fc) (expectOf c)
      (requestFrame config s.tid s.cfgUnit c fc)) := by
  have he : enc config s.tid s.cfgUnit c = .ok (requestFrame config s.tid s.cfgUnit c fc) := by
    rw [enc_of_op ho, hr]
    rfl
  rw [exec_request hi, he, command_accepts _ _ _ hp (enc_ok_length he), latchRequest_eq_accepted,
    wordAt_requestFrame_ten]

/-- A counted request in IDLE: its refusals in their order, else its frame (R131, R232). -/
theorem exec_counted {i : Instr} {c : Command} {fc : FunctionCode} {max : Nat} {s : State}
    (hi : encodeCommand i = some c) (ho : c.op = fc.toByte) (hmax : quantityMax config fc = some max)
    (hp : s.phase = .idle) :
    (c.qty = 0 → exec i s = .next (encodingFailed s 1 (kindOfOp c.op))) ∧
    (max < c.qty.toNat → exec i s = .next (encodingFailed s 2 (kindOfOp c.op))) ∧
    (1 ≤ c.qty.toNat → c.qty.toNat ≤ max → payloadDisagrees c fc = true →
      exec i s = .next (encodingFailed s 3 (kindOfOp c.op))) ∧
    (1 ≤ c.qty.toNat → c.qty.toNat ≤ max → payloadDisagrees c fc = false →
      exec i s = .next (accepted s c.op c.addr (requestOperand c fc) (expectOf c)
        (requestFrame config s.tid s.cfgUnit c fc))) := by
  obtain ⟨hzero, hlarge, hpayload, hnone⟩ := requestRefusal_counted hmax c
  have hpos {n : Nat} (hn : n < c.qty.toNat) : c.qty ≠ 0 := fun h => by
    rw [qty_eq_zero] at h
    omega
  exact ⟨fun h => exec_refused hi ho hp (hzero.2 h),
    fun h => exec_refused hi ho hp (hlarge.2 ⟨hpos h, h⟩),
    fun h1 hle hd => exec_refused hi ho hp (hpayload.2 ⟨hpos h1, hle, hd⟩),
    fun h1 hle hd => exec_accepted hi ho hp (hnone.2 ⟨hpos h1, hle, hd⟩)⟩

/-- Settles O10: both are counted requests of fixed size, so no payload can disagree. -/
theorem bitReadRequests : Obligations.BitReadRequests := by
  intro s addr qty hp
  obtain ⟨hzeroC, hlargeC, -, hokC⟩ :=
    exec_counted (i := .readCoils addr qty) (fc := .readCoils) rfl rfl rfl hp
  obtain ⟨hzeroD, hlargeD, -, hokD⟩ :=
    exec_counted (i := .readDiscreteInputs addr qty) (fc := .readDiscreteInputs) rfl rfl rfl hp
  rw [requestFrame_of_fixed _ _ _ (by decide)] at hokC hokD
  exact ⟨fun h => ⟨hzeroC h, hzeroD h⟩, fun h => ⟨hlargeC h, hlargeD h⟩,
    fun h1 hle => ⟨hokC h1 hle rfl, hokD h1 hle rfl⟩⟩

/-- Settles O11, as O10 with the limit 125. -/
theorem registerReadRequests : Obligations.RegisterReadRequests := by
  intro s addr qty hp
  obtain ⟨hzeroH, hlargeH, -, hokH⟩ :=
    exec_counted (i := .readHoldingRegisters addr qty) (fc := .readHoldingRegisters) rfl rfl rfl hp
  obtain ⟨hzeroI, hlargeI, -, hokI⟩ :=
    exec_counted (i := .readInputRegisters addr qty) (fc := .readInputRegisters) rfl rfl rfl hp
  rw [requestFrame_of_fixed _ _ _ (by decide)] at hokH hokI
  exact ⟨fun h => ⟨hzeroH h, hzeroI h⟩, fun h => ⟨hlargeH h, hlargeI h⟩,
    fun h1 hle => ⟨hokH h1 hle rfl, hokI h1 hle rfl⟩⟩

/-- Settles O12: neither write has a quantity to refuse. -/
theorem singleWriteRequests : Obligations.SingleWriteRequests := by
  intro s addr value coil hp
  have hregister := exec_accepted (i := .writeSingleRegister addr value) (fc := .writeSingleRegister) rfl rfl hp
    (requestRefusal_uncounted rfl _)
  have hcoil := exec_accepted (i := .writeSingleCoil addr coil) (fc := .writeSingleCoil) rfl rfl hp
    (requestRefusal_uncounted rfl _)
  rw [requestFrame_of_fixed _ _ _ (by decide)] at hregister hcoil
  have hoperand (c : Command) : requestOperand c .writeSingleCoil = coilValue c.coil := rfl
  rw [hoperand, hi_coilValue, lo_coilValue] at hcoil
  exact ⟨hcoil, hregister⟩

/-- Settles O13: the packed bytes are the sums of R104. -/
theorem writeMultipleCoilsRequest : Obligations.WriteMultipleCoilsRequest := by
  intro s addr qty bits hp
  obtain ⟨hzero, hlarge, hpayload, hok⟩ :=
    exec_counted (i := .writeMultipleCoils addr qty bits) (fc := .writeMultipleCoils) rfl rfl rfl hp
  refine ⟨hzero, hlarge, fun h1 hle hne => hpayload h1 hle (decide_eq_true hne), fun h1 hle heq => ?_⟩
  have hbytes : packByte bits qty.toNat = coilByte qty.toNat bits := funext (packByte_eq_coilByte bits qty.toNat)
  rw [← hbytes]
  exact hok h1 hle (decide_eq_false (not_not_intro heq))

/-- Settles O14: the packed words are R105's bytes. -/
theorem writeMultipleRegistersRequest : Obligations.WriteMultipleRegistersRequest := by
  intro s addr qty words hp
  obtain ⟨hzero, hlarge, hpayload, hok⟩ :=
    exec_counted (i := .writeMultipleRegisters addr qty words) (fc := .writeMultipleRegisters) rfl rfl rfl hp
  refine ⟨hzero, hlarge, fun h1 hle hne => hpayload h1 hle (decide_eq_true hne), fun h1 hle heq => ?_⟩
  rw [← packWords_eq_flatMap]
  exact hok h1 hle (decide_eq_false (not_not_intro heq))

/-- Settles O17: the step is the CMD step on what `ENC` answers for a reserved `op`. -/
theorem reservedOpCompletes : Obligations.ReservedOpCompletes := by
  intro s c rest hp hi h1 h2 h3 h4 h5 h6 h15 h16
  have hres := forall_ne_toByte.2 ⟨h1, h2, h3, h4, h5, h6, h15, h16⟩
  have hkind : kindOfOp c.op = .none := by simp only [kindOfOp, ofByte?_eq_none.2 hres]
  rw [step_head hi (by simp [mustWait, hp]), accept, acceptCommand_eq, enc_of_reserved hres,
    command_refuses (s := { s with inputs := rest }) _ _ _ _ hp, raise_spendTid, hkind]
  rfl

/-! ### Every instruction answers a next state -/

/-- What is encoded as a request frame has a command record (R22, R93 to R95). -/
theorem encodeCommand_of_request {i : Instr} {t : Word} {u : Byte} {frame : List Byte}
    (h : encode t u i = .request frame) : ∃ c, encodeCommand i = some c := by
  cases i <;> simp only [encode, reduceCtorEq] at h <;> exact ⟨_, rfl⟩

/-- Settles O31, port by port. That a request outside IDLE and a response outside AWAIT answer the unchanged state
is the model's choice (log entry 20). -/
theorem everyInstructionAnswersNext : Obligations.EveryInstructionAnswersNext := by
  intro i s
  cases hi : encode 0 0 i with
  | request frame =>
    obtain ⟨c, hc⟩ := encodeCommand_of_request hi
    rw [exec_request hc]
    exact command_next _ _ _ _ s fun _ => enc_ok_length
  | response raw =>
    obtain ⟨body, hbody⟩ := exec_response hi s
    rw [hbody, receive_eq]
    split <;> exact ⟨_, rfl⟩
  | conv p =>
    obtain ⟨out, hout⟩ := exec_conv hi s
    exact ⟨_, hout⟩

end Sys2Proof.Machine

/-! ## `DEC`, line by line (41_response_decode.md R160 to R180) -/

namespace Sys2Proof.Machine

section
variable {p : Pending} {raw : List Byte} {body : Pending → List Byte → Except ProtoDetail DecResult}

/-- Line 1 of R160 (R161). -/
theorem headerError_tooShort (h : raw.length < 8) : headerError p raw = some .tooShort := if_pos h

/-- Line 2 of R160 (R162). -/
theorem headerError_tidMismatch (hlen : 8 ≤ raw.length) (h : wordAt raw 0 ≠ p.tid) :
    headerError p raw = some .tidMismatch := by
  rw [headerError, if_neg (Nat.not_lt.2 hlen), if_pos h]

/-- Line 3 of R160 (R163). -/
theorem headerError_protocolId (hlen : 8 ≤ raw.length) (htid : wordAt raw 0 = p.tid) (h : wordAt raw 2 ≠ 0) :
    headerError p raw = some .protocolId := by
  rw [headerError, if_neg (Nat.not_lt.2 hlen), if_neg (not_not_intro htid)]
  exact if_pos h

/-- Line 4 of R160 (R164). -/
theorem headerError_lengthMismatch (hlen : 8 ≤ raw.length) (htid : wordAt raw 0 = p.tid)
    (hproto : wordAt raw 2 = config.protocolId) (h : (wordAt raw 4).toNat ≠ raw.length - 6) :
    headerError p raw = some .lengthMismatch := by
  rw [headerError, if_neg (Nat.not_lt.2 hlen), if_neg (not_not_intro htid), if_neg (not_not_intro hproto), if_pos h]

/-- Line 5 of R160 (R165). -/
theorem headerError_unitMismatch (hlen : 8 ≤ raw.length) (htid : wordAt raw 0 = p.tid)
    (hproto : wordAt raw 2 = config.protocolId) (hlength : (wordAt raw 4).toNat = raw.length - 6)
    (h : byteAt raw 6 ≠ p.unit) : headerError p raw = some .unitMismatch := by
  rw [headerError, if_neg (Nat.not_lt.2 hlen), if_neg (not_not_intro htid), if_neg (not_not_intro hproto),
    if_neg (not_not_intro hlength), if_pos h]

/-- A fault in the header is the one reported (R160, lines 1 to 5). -/
theorem decWith_headerError {d : ProtoDetail} (h : headerError p raw = some d) : decWith body p raw = .error d := by
  simp only [decWith, h]

/-- Line 6 of R160: an exception response (R167). -/
theorem decWith_excByte (hh : headerError p raw = none) (h7 : byteAt raw 7 = (p.fc ||| 0x80)) :
    decWith body p raw = .error (bodyExc raw) := by
  simp only [decWith, hh, if_pos h7]

/-- Line 7 of R160: neither an exception nor a normal response of the pending function code (R168). -/
theorem decWith_otherByte (hh : headerError p raw = none) (hexc : byteAt raw 7 ≠ (p.fc ||| 0x80))
    (h7 : byteAt raw 7 ≠ p.fc) : decWith body p raw = .error .functionMismatch := by
  simp only [decWith, hh, if_neg hexc, if_pos h7]

/-- Line 8 of R160: the body rule, for a function code has no bit 7 and so is not taken for an exception. -/
theorem decWith_ownByte {fc : FunctionCode} (hh : headerError p raw = none) (hfc : p.fc = fc.toByte)
    (h7 : byteAt raw 7 = p.fc) : decWith body p raw = body p raw := by
  have hexc : byteAt raw 7 ≠ (p.fc ||| 0x80) := by
    rw [h7, hfc]
    exact (or_0x80_ne fc).symm
  simp only [decWith, hh, if_neg hexc, if_neg (not_not_intro h7)]

theorem dec_ownByte {fc : FunctionCode} (hh : headerError p raw = none) (hfc : p.fc = fc.toByte)
    (h7 : byteAt raw 7 = p.fc) : dec p raw = bodyOf fc.toByte p raw := by
  rw [dec, decWith_ownByte hh hfc h7, hfc]

theorem bodyExc_of_code (h : 9 ≤ raw.length) : bodyExc raw = .exception (byteAt raw 8) := if_pos h

theorem bodyExc_of_no_code (h : raw.length = 8) : bodyExc raw = .bodyMalformed := if_neg (by omega)

theorem readBodyFits_eq_true {want : Nat} :
    readBodyFits want raw = true ↔
      9 ≤ raw.length ∧ (byteAt raw 8).toNat = want ∧ raw.length = 9 + (byteAt raw 8).toNat := by
  simp only [readBodyFits, Bool.and_eq_true, decide_eq_true_eq, and_assoc]

theorem readBodyFits_eq_false {want : Nat} :
    readBodyFits want raw = false ↔
      raw.length < 9 ∨ (byteAt raw 8).toNat ≠ want ∨ raw.length ≠ 9 + (byteAt raw 8).toNat := by
  rw [← Bool.not_eq_true, readBodyFits_eq_true]
  omega

end

/-- The size checks that the two read rules share, in the words of R169 and R171. -/
theorem ite_readBodyFits (want : Nat) (raw : List Byte) (d : DecResult) :
    (if readBodyFits want raw then .ok d else .error .bodyMalformed : Except ProtoDetail DecResult) =
      if raw.length < 9 ∨ (byteAt raw 8).toNat ≠ want ∨ raw.length ≠ 9 + (byteAt raw 8).toNat then
        .error .bodyMalformed
      else .ok d := by
  cases hfit : readBodyFits want raw with
  | false => rw [if_neg Bool.false_ne_true, if_pos (readBodyFits_eq_false.1 hfit)]
  | true =>
    rw [← Bool.not_eq_false, readBodyFits_eq_false] at hfit
    rw [if_pos rfl, if_neg hfit]

/-- The body rule of the bit reads by the offsets of the whole frame (R169, R170). -/
theorem bodyBits_eq (p : Pending) (raw : List Byte) :
    bodyBits p raw =
      if raw.length < 9 ∨ (byteAt raw 8).toNat ≠ (p.qv.toNat + 7) / 8 ∨ raw.length ≠ 9 + (byteAt raw 8).toNat then
        .error .bodyMalformed
      else .ok (.bits ((List.range p.qv.toNat).map fun i => (byteAt raw (9 + i / 8)).getLsbD (i % 8))) := by
  rw [bodyBits, ite_readBodyFits]
  simp only [unpackBits, byteAt_drop, bitsByteCount]

/-- The body rule of the register reads by the offsets of the whole frame (R171, R172). -/
theorem bodyRegs_eq (p : Pending) (raw : List Byte) :
    bodyRegs p raw =
      if raw.length < 9 ∨ (byteAt raw 8).toNat ≠ 2 * p.qv.toNat ∨ raw.length ≠ 9 + (byteAt raw 8).toNat then
        .error .bodyMalformed
      else .ok (.words ((List.range p.qv.toNat).map fun i => wordAt raw (9 + 2 * i))) := by
  rw [bodyRegs, ite_readBodyFits]
  simp only [unpackWords, wordAt_drop, regsByteCount]

/-- Settles O22: each clause is one line of R160, or the body rule that its function code selects. -/
theorem decReportsTheFirstFault : Obligations.DecReportsTheFirstFault := by
  intro p raw
  refine ⟨fun h => decWith_headerError (headerError_tooShort h), fun hlen =>
    ⟨fun h => decWith_headerError (headerError_tidMismatch hlen h), fun htid =>
      ⟨fun h => decWith_headerError (headerError_protocolId hlen htid h), fun hproto =>
        ⟨fun h => decWith_headerError (headerError_lengthMismatch hlen htid hproto h), fun hlength =>
          ⟨fun h => decWith_headerError (headerError_unitMismatch hlen htid hproto hlength h), fun hunit => ?_⟩⟩⟩⟩⟩
  have hh : headerError p raw = none := headerError_eq_none.2 ⟨hlen, htid, hproto, hlength, hunit⟩
  refine ⟨fun h7 => ⟨fun h => ?_, fun h => ?_⟩, decWith_otherByte hh, fun h7 => ⟨?_, ?_, ?_⟩⟩
  · rw [← bodyExc_of_code h]
    exact decWith_excByte hh h7
  · rw [← bodyExc_of_no_code h]
    exact decWith_excByte hh h7
  · rw [← bodyBits_eq]
    rintro (hfc | hfc)
    · exact dec_ownByte (fc := .readCoils) hh hfc h7
    · exact dec_ownByte (fc := .readDiscreteInputs) hh hfc h7
  · rw [← bodyRegs_eq]
    rintro (hfc | hfc)
    · exact dec_ownByte (fc := .readHoldingRegisters) hh hfc h7
    · exact dec_ownByte (fc := .readInputRegisters) hh hfc h7
  · rintro (hfc | hfc | hfc | hfc)
    · exact dec_ownByte (fc := .writeSingleCoil) hh hfc h7
    · exact dec_ownByte (fc := .writeSingleRegister) hh hfc h7
    · exact dec_ownByte (fc := .writeMultipleCoils) hh hfc h7
    · exact dec_ownByte (fc := .writeMultipleRegisters) hh hfc h7

/-- `RSP_BITS` answers data only from a frame that holds all of it (R169, R178). -/
theorem bodyBits_ok {p : Pending} {raw : List Byte} {d : DecResult} (h : bodyBits p raw = .ok d) :
    raw.length = 9 + (p.qv.toNat + 7) / 8 ∧ ∃ l, d = .bits l ∧ l.length = p.qv.toNat := by
  rcases bodyBits_cases p raw with ⟨hfit, heq⟩ | ⟨-, heq⟩ <;> rw [heq] at h <;> cases h
  obtain ⟨-, hcount, hlen⟩ := readBodyFits_eq_true.1 hfit
  exact ⟨by rw [hlen, hcount, bitsByteCount], _, rfl, length_unpackBits ..⟩

/-- `RSP_REGS` answers data only from a frame that holds all of it (R171, R178). -/
theorem bodyRegs_ok {p : Pending} {raw : List Byte} {d : DecResult} (h : bodyRegs p raw = .ok d) :
    raw.length = 9 + 2 * p.qv.toNat ∧ ∃ l, d = .words l ∧ l.length = p.qv.toNat := by
  rcases bodyRegs_cases p raw with ⟨hfit, heq⟩ | ⟨-, heq⟩ <;> rw [heq] at h <;> cases h
  obtain ⟨-, hcount, hlen⟩ := readBodyFits_eq_true.1 hfit
  exact ⟨by rw [hlen, hcount, regsByteCount], _, rfl, length_unpackWords ..⟩

/-- `RSP_ECHO` answers no data, and only on twelve bytes (R173). -/
theorem bodyEcho_ok {p : Pending} {raw : List Byte} {d : DecResult} (h : bodyEcho p raw = .ok d) :
    raw.length = 12 ∧ d = .done := by
  rcases bodyEcho_cases p raw with ⟨-, heq⟩ | ⟨-, -, heq⟩ | ⟨hlen, -, -, heq⟩ <;> rw [heq] at h <;> cases h
  exact ⟨hlen, rfl⟩

/-- `DEC` succeeds only by the body rule of one of the eight function codes (R106, R160). -/
theorem dec_ok_body {p : Pending} {raw : List Byte} {d : DecResult} (h : dec p raw = .ok d) :
    ∃ fc : FunctionCode, p.fc = fc.toByte ∧ bodyOf fc.toByte p raw = .ok d := by
  obtain ⟨-, -, hbody⟩ := decWith_ok h
  rcases op_cases p.fc with ⟨fc, hfc⟩ | hres
  · exact ⟨fc, hfc, hfc ▸ hbody⟩
  · simp only [bodyOf, ofByte?_eq_none.2 hres] at hbody
    cases hbody

/-- What `DEC` answers is of the kind of its function code, from a frame of the size that the request fixed (R178,
R180). -/
theorem dec_ok_cases {p : Pending} {raw : List Byte} {d : DecResult} (h : dec p raw = .ok d) :
    ((p.fc = 0x01 ∨ p.fc = 0x02) ∧ raw.length = 9 + (p.qv.toNat + 7) / 8 ∧
      ∃ l, d = .bits l ∧ l.length = p.qv.toNat) ∨
    ((p.fc = 0x03 ∨ p.fc = 0x04) ∧ raw.length = 9 + 2 * p.qv.toNat ∧
      ∃ l, d = .words l ∧ l.length = p.qv.toNat) ∨
    ((p.fc = 0x05 ∨ p.fc = 0x06 ∨ p.fc = 0x0F ∨ p.fc = 0x10) ∧ raw.length = 12 ∧ d = .done) := by
  obtain ⟨fc, hfc, hbody⟩ := dec_ok_body h
  cases fc
  case readCoils => exact .inl ⟨.inl hfc, bodyBits_ok hbody⟩
  case readDiscreteInputs => exact .inl ⟨.inr hfc, bodyBits_ok hbody⟩
  case readHoldingRegisters => exact .inr (.inl ⟨.inl hfc, bodyRegs_ok hbody⟩)
  case readInputRegisters => exact .inr (.inl ⟨.inr hfc, bodyRegs_ok hbody⟩)
  case writeSingleCoil => exact .inr (.inr ⟨.inl hfc, bodyEcho_ok hbody⟩)
  case writeSingleRegister => exact .inr (.inr ⟨.inr (.inl hfc), bodyEcho_ok hbody⟩)
  case writeMultipleCoils => exact .inr (.inr ⟨.inr (.inr (.inl hfc)), bodyEcho_ok hbody⟩)
  case writeMultipleRegisters => exact .inr (.inr ⟨.inr (.inr (.inr hfc)), bodyEcho_ok hbody⟩)

/-- Settles O24: the kind of the result tells which body rule answered. -/
theorem dataHasTheRequestedQuantity : Obligations.DataHasTheRequestedQuantity := by
  intro p raw
  refine ⟨fun l h => ?_, fun l h => ?_, fun h => ?_⟩
  · obtain ⟨hfc, hlen, _, ⟨⟩, hl⟩ | ⟨-, -, _, ⟨⟩, -⟩ | ⟨-, -, ⟨⟩⟩ := dec_ok_cases h
    exact ⟨hl, hlen, hfc⟩
  · obtain ⟨-, -, _, ⟨⟩, -⟩ | ⟨hfc, hlen, _, ⟨⟩, hl⟩ | ⟨-, -, ⟨⟩⟩ := dec_ok_cases h
    exact ⟨hl, hlen, hfc⟩
  · obtain ⟨-, -, _, ⟨⟩, -⟩ | ⟨-, -, _, ⟨⟩, -⟩ | ⟨hfc, hlen, -⟩ := dec_ok_cases h
    exact ⟨hlen, hfc⟩

end Sys2Proof.Machine

/-! ## The response instructions in AWAIT whose header agrees (41_response_decode.md R167 to R176; 44_dispatcher.md
R234) -/

namespace Sys2Proof.Machine

/-- A response frame whose header agrees passes lines 1 to 5 of R160 (R166). -/
theorem headerError_rspFrame {s : State} {r : RspFrame} (h : headerAgrees s r) (f : Byte) :
    headerError (pendingOf s) (rspFrame f r) = none := by
  obtain ⟨htid, hlength, hunit⟩ := h
  obtain ⟨h0, h2, h4, h6, -⟩ := rspFrame_fields f r
  refine headerError_eq_none.2 ⟨?_, h0.trans htid, h2, ?_, h6.trans hunit⟩
  · simp
  · rw [h4, hlength, length_rspFrame]
    omega

/-- A response row in AWAIT stores its frame and completes (R234). -/
theorem receiveRow_await {s : State} (hp : s.phase = .await) (f : Byte)
    (body : Pending → List Byte → Except ProtoDetail DecResult) (r : RspFrame) :
    receiveRow f body r s =
      .next (finish (decWith body (pendingOf s) (rspFrame f r)) (received s (rspFrame f r))) := by
  rw [receiveRow, receive_eq, if_pos hp]
  rfl

/-- A completion with a ProtocolError, field by field (R280). -/
theorem finish_error (e : ProtoDetail) (s : State) :
    finish (.error e) s =
      failed s .protocolError (protoCode e) (errorExc (.protocol e)) (kindOfOp s.pendFc) := rfl

section
variable {s : State} {r : RspFrame} {fc : FunctionCode}

/-- A normal response under its own `PEND_FC`: the body rule decides (R160, line 8). -/
theorem exec_rspRow_await (hp : s.phase = .await) (hh : headerAgrees s r) (hfc : s.pendFc = fc.toByte) :
    exec (rspRow r fc) s =
      .next (finish (bodyOf fc.toByte (pendingOf s) (rspFrame fc.toByte r)) (received s (rspFrame fc.toByte r))) := by
  obtain ⟨-, -, -, -, h7⟩ := rspFrame_fields fc.toByte r
  rw [exec_rspRow, receiveRow_await hp,
    decWith_ownByte (p := pendingOf s) (headerError_rspFrame hh _) hfc (h7.trans hfc.symm)]

/-- A normal response that its body rule accepts. -/
theorem exec_rspRow_ok {d : DecResult} (hp : s.phase = .await) (hh : headerAgrees s r) (hfc : s.pendFc = fc.toByte)
    (hd : bodyOf fc.toByte (pendingOf s) (rspFrame fc.toByte r) = .ok d) :
    exec (rspRow r fc) s = .next (completeOk d (received s (rspFrame fc.toByte r))) := by
  rw [exec_rspRow_await hp hh hfc, hd]
  rfl

/-- A normal response that its body rule refuses. -/
theorem exec_rspRow_error {e : ProtoDetail} (hp : s.phase = .await) (hh : headerAgrees s r)
    (hfc : s.pendFc = fc.toByte) (he : bodyOf fc.toByte (pendingOf s) (rspFrame fc.toByte r) = .error e) :
    exec (rspRow r fc) s =
      .next (failed (received s (rspFrame fc.toByte r)) .protocolError (protoCode e) (errorExc (.protocol e))
        (kindOfOp fc.toByte)) := by
  rw [exec_rspRow_await hp hh hfc, he, finish_error, ← hfc]
  rfl

/-- An exception response under its own `PEND_FC` (R167). -/
theorem exec_excRow_await (hp : s.phase = .await) (hh : headerAgrees s r) (hfc : s.pendFc = fc.toByte) :
    exec (excRow r fc) s =
      .next (failed (received s (rspFrame (fc.toByte ||| 0x80) r)) .protocolError
        (protoCode (bodyExc (rspFrame (fc.toByte ||| 0x80) r)))
        (errorExc (.protocol (bodyExc (rspFrame (fc.toByte ||| 0x80) r)))) (kindOfOp fc.toByte)) := by
  obtain ⟨-, -, -, -, h7⟩ := rspFrame_fields (fc.toByte ||| 0x80) r
  have hexc : byteAt (rspFrame (fc.toByte ||| 0x80) r) 7 = ((pendingOf s).fc ||| 0x80) := by
    rw [h7, ← hfc]
    rfl
  rw [exec_excRow, receiveRow_await hp, decWith_excByte (headerError_rspFrame hh _) hexc, finish_error, ← hfc]
  rfl

end

/-! ### Reads -/

/-- The payload of a read response stands from offset 9 on. -/
theorem drop_rspFrame {r : RspFrame} {bc : Byte} {payload : List Byte} (hb : r.body = bc :: payload) (f : Byte) :
    (rspFrame f r).drop 9 = payload := by
  simp [rspFrame, hb]

/-- The size checks fail when no body has both the asked `byteCount` and that many bytes (R169, R171). -/
theorem readBodyFits_rspFrame_eq_false {want : Nat} {r : RspFrame}
    (h : ∀ (bc : Byte) (payload : List Byte), r.body = bc :: payload → bc.toNat = want →
      payload.length ≠ bc.toNat) (f : Byte) : readBodyFits want (rspFrame f r) = false := by
  rw [← Bool.not_eq_true, readBodyFits_rspFrame]
  rintro ⟨bc, payload, hb, hbc, hlen⟩
  exact h bc payload hb hbc hlen

theorem getElem?_unpackBits {q i : Nat} (hi : i < q) (payload : List Byte) :
    (unpackBits q payload)[i]? = some ((payload.getD (i / 8) 0).getLsbD (i % 8)) := by
  simp [unpackBits, byteAt, hi]

theorem getElem?_unpackWords {q i : Nat} (hi : i < q) (payload : List Byte) :
    (unpackWords q payload)[i]? = some (wordAt payload (2 * i)) := by
  simp [unpackWords, hi]

/-- A 16-bit field is its first byte times 256 plus its second (R67). -/
theorem wordAt_toNat (payload : List Byte) (k : Nat) :
    (wordAt payload k).toNat = (payload.getD k 0).toNat * 256 + (payload.getD (k + 1) 0).toNat :=
  be16_toNat ..

/-- `RSP_BITS` on a response frame of the right size (R169, R170). -/
theorem bodyBits_rspFrame {p : Pending} {r : RspFrame} {bc : Byte} {payload : List Byte}
    (hb : r.body = bc :: payload) (hbc : bc.toNat = bitsByteCount p.qv) (hlen : payload.length = bc.toNat) (f : Byte) :
    bodyBits p (rspFrame f r) = .ok (.bits (unpackBits p.qv.toNat payload)) := by
  rw [bodyBits, if_pos ((readBodyFits_rspFrame _ f r).2 ⟨bc, payload, hb, hbc, hlen⟩), drop_rspFrame hb]

/-- `RSP_REGS` on a response frame of the right size (R171, R172). -/
theorem bodyRegs_rspFrame {p : Pending} {r : RspFrame} {bc : Byte} {payload : List Byte}
    (hb : r.body = bc :: payload) (hbc : bc.toNat = regsByteCount p.qv) (hlen : payload.length = bc.toNat) (f : Byte) :
    bodyRegs p (rspFrame f r) = .ok (.words (unpackWords p.qv.toNat payload)) := by
  rw [bodyRegs, if_pos ((readBodyFits_rspFrame _ f r).2 ⟨bc, payload, hb, hbc, hlen⟩), drop_rspFrame hb]

theorem bodyBits_of_not_fits {p : Pending} {raw : List Byte} (h : readBodyFits (bitsByteCount p.qv) raw = false) :
    bodyBits p raw = .error .bodyMalformed := if_neg (by simp [h])

theorem bodyRegs_of_not_fits {p : Pending} {raw : List Byte} (h : readBodyFits (regsByteCount p.qv) raw = false) :
    bodyRegs p raw = .error .bodyMalformed := if_neg (by simp [h])

/-- A completion with bits, counted by the quantity they were asked for (R33, R248). -/
theorem completeOk_bits {l : List Bool} {n : Nat} (h : l.length = n) (s : State) :
    completeOk (.bits l) s = succeeded s .bits (BitVec.ofNat 11 n) l [] := by
  subst h
  rfl

/-- A completion with words, counted by the quantity they were asked for (R33, R248). -/
theorem completeOk_words {l : List Word} {n : Nat} (h : l.length = n) (s : State) :
    completeOk (.words l) s = succeeded s .words (BitVec.ofNat 11 n) [] l := by
  subst h
  rfl

/-- Settles O18: both bit reads run `RSP_BITS`, whose size checks pass exactly for the bodies of the first clause. -/
theorem bitReadResponses : Obligations.BitReadResponses := by
  intro s r hp hh
  refine ⟨fun bc payload hb hbc hlen => ?_, fun h => ?_⟩
  · have hbits := bodyBits_rspFrame (p := pendingOf s) hb hbc hlen
    have hcomplete := completeOk_bits (length_unpackBits s.pendQv.toNat payload)
    refine ⟨unpackBits s.pendQv.toNat payload, length_unpackBits .., fun i hi => getElem?_unpackBits hi payload,
      fun hfc => ?_, fun hfc => ?_⟩ <;> rw [← hcomplete]
    · exact exec_rspRow_ok (fc := .readCoils) hp hh hfc (hbits _)
    · exact exec_rspRow_ok (fc := .readDiscreteInputs) hp hh hfc (hbits _)
  · have hbad f : bodyBits (pendingOf s) (rspFrame f r) = .error .bodyMalformed :=
      bodyBits_of_not_fits (readBodyFits_rspFrame_eq_false h f)
    exact ⟨fun hfc => exec_rspRow_error (fc := .readCoils) hp hh hfc (hbad _),
      fun hfc => exec_rspRow_error (fc := .readDiscreteInputs) hp hh hfc (hbad _)⟩

/-- Settles O19, as O18 with `RSP_REGS`. -/
theorem registerReadResponses : Obligations.RegisterReadResponses := by
  intro s r hp hh
  refine ⟨fun bc payload hb hbc hlen => ?_, fun h => ?_⟩
  · have hwords := bodyRegs_rspFrame (p := pendingOf s) hb hbc hlen
    have hcomplete := completeOk_words (length_unpackWords s.pendQv.toNat payload)
    refine ⟨unpackWords s.pendQv.toNat payload, length_unpackWords ..,
      fun i hi => ⟨_, getElem?_unpackWords hi payload, wordAt_toNat payload _⟩,
      fun hfc => ?_, fun hfc => ?_⟩ <;> rw [← hcomplete]
    · exact exec_rspRow_ok (fc := .readHoldingRegisters) hp hh hfc (hwords _)
    · exact exec_rspRow_ok (fc := .readInputRegisters) hp hh hfc (hwords _)
  · have hbad f : bodyRegs (pendingOf s) (rspFrame f r) = .error .bodyMalformed :=
      bodyRegs_of_not_fits (readBodyFits_rspFrame_eq_false h f)
    exact ⟨fun hfc => exec_rspRow_error (fc := .readHoldingRegisters) hp hh hfc (hbad _),
      fun hfc => exec_rspRow_error (fc := .readInputRegisters) hp hh hfc (hbad _)⟩

/-! ### Write echoes -/

theorem be16_eq_iff {b0 b1 : Byte} {v : Word} : be16 b0 b1 = v ↔ b0 = hi v ∧ b1 = lo v := by
  constructor
  · rintro rfl
    exact ⟨(hi_be16 b0 b1).symm, (lo_be16 b0 b1).symm⟩
  · rintro ⟨rfl, rfl⟩
    exact be16_hi_lo v

/-- Four bytes are two given words exactly if both of their 16-bit fields are (R67, R177). -/
theorem eq_two_words_iff {l : List Byte} {a v : Word} :
    l = [hi a, lo a, hi v, lo v] ↔ l.length = 4 ∧ wordAt l 0 = a ∧ wordAt l 2 = v := by
  constructor
  · rintro rfl
    exact ⟨rfl, be16_hi_lo a, be16_hi_lo v⟩
  · rintro ⟨hlen, ha, hv⟩
    match l, hlen with
    | [b0, b1, b2, b3], _ =>
      obtain ⟨rfl, rfl⟩ := be16_eq_iff.1 ha
      obtain ⟨rfl, rfl⟩ := be16_eq_iff.1 hv
      rfl

theorem wordAt_rspFrame (f : Byte) (r : RspFrame) (k : Nat) : wordAt (rspFrame f r) (8 + k) = wordAt r.body k := by
  simp only [wordAt, Nat.add_assoc, byteAt_rspFrame]

/-- `RSP_ECHO` on a response frame, by its body (R173 to R177). -/
theorem bodyEcho_rspFrame (p : Pending) (f : Byte) (r : RspFrame) :
    bodyEcho p (rspFrame f r) =
      if r.body = [hi p.addr, lo p.addr, hi p.qv, lo p.qv] then .ok .done
      else if r.body.length = 4 then .error .echoMismatch
      else .error .bodyMalformed := by
  have hlen : (rspFrame f r).length = 12 ↔ r.body.length = 4 := by
    rw [length_rspFrame]
    omega
  have h8 : wordAt (rspFrame f r) 8 = wordAt r.body 0 := wordAt_rspFrame f r 0
  have h10 : wordAt (rspFrame f r) 10 = wordAt r.body 2 := wordAt_rspFrame f r 2
  have hecho := bodyEcho_cases p (rspFrame f r)
  rw [h8, h10, ne_eq, hlen] at hecho
  rcases hecho with ⟨h4, heq⟩ | ⟨h4, hne, heq⟩ | ⟨h4, haddr, hqv, heq⟩
  · rw [heq, if_neg fun h => h4 (eq_two_words_iff.1 h).1, if_neg h4]
  · rw [heq, if_neg, if_pos h4]
    intro h
    obtain ⟨-, haddr, hqv⟩ := eq_two_words_iff.1 h
    exact hne.elim (absurd haddr) (absurd hqv)
  · rw [heq, if_pos (eq_two_words_iff.2 ⟨h4, haddr, hqv⟩)]

/-- A write response under its own `PEND_FC` (R173 to R176). -/
theorem exec_echoRow {s : State} {r : RspFrame} {fc : FunctionCode} (hecho : bodyOf fc.toByte = bodyEcho)
    (hkind : kindOfOp fc.toByte = .flag) (hp : s.phase = .await) (hh : headerAgrees s r)
    (hfc : s.pendFc = fc.toByte) :
    exec (rspRow r fc) s =
      .next (
        if r.body = [hi s.pendAddr, lo s.pendAddr, hi s.pendQv, lo s.pendQv] then
          succeeded (received s (rspFrame fc.toByte r)) .flag 0 [] []
        else if r.body.length = 4 then
          failed (received s (rspFrame fc.toByte r)) .protocolError 9 0 .flag
        else failed (received s (rspFrame fc.toByte r)) .protocolError 8 0 .flag) := by
  have hbody := bodyEcho_rspFrame (pendingOf s) fc.toByte r
  rw [← hecho] at hbody
  split
  · exact exec_rspRow_ok hp hh hfc (hbody.trans (if_pos ‹_›))
  · rw [← hkind]
    have hbody := hbody.trans (if_neg ‹_›)
    split
    · exact exec_rspRow_error hp hh hfc (hbody.trans (if_pos ‹_›))
    · exact exec_rspRow_error hp hh hfc (hbody.trans (if_neg ‹_›))

/-- Settles O20: the four rows are those whose body rule is `RSP_ECHO`. -/
theorem writeResponsesCheckTheEcho : Obligations.WriteResponsesCheckTheEcho := by
  intro s r hp hh f i hmem hfc
  simp only [List.mem_cons, Prod.mk.injEq, List.not_mem_nil, or_false] at hmem
  obtain ⟨rfl, rfl⟩ | ⟨rfl, rfl⟩ | ⟨rfl, rfl⟩ | ⟨rfl, rfl⟩ := hmem
  · exact exec_echoRow (fc := .writeSingleCoil) rfl rfl hp hh hfc
  · exact exec_echoRow (fc := .writeSingleRegister) rfl rfl hp hh hfc
  · exact exec_echoRow (fc := .writeMultipleCoils) rfl rfl hp hh hfc
  · exact exec_echoRow (fc := .writeMultipleRegisters) rfl rfl hp hh hfc

/-! ### Exceptions -/

theorem bodyExc_rspFrame_nil {r : RspFrame} (hb : r.body = []) (f : Byte) :
    bodyExc (rspFrame f r) = .bodyMalformed :=
  bodyExc_of_no_code (by simp [hb])

theorem bodyExc_rspFrame_cons {r : RspFrame} {code : Byte} {rest : List Byte} (hb : r.body = code :: rest) (f : Byte) :
    bodyExc (rspFrame f r) = .exception code := by
  have h8 : byteAt (rspFrame f r) 8 = byteAt r.body 0 := byteAt_rspFrame f r 0
  have hlen : 9 ≤ (rspFrame f r).length := by
    rw [length_rspFrame, hb, List.length_cons]
    omega
  rw [bodyExc_of_code hlen, h8, hb, byteAt_cons_zero]

/-- An exception response under its own `PEND_FC`, by its body (R167). -/
theorem exec_excRow_body {s : State} {r : RspFrame} {fc : FunctionCode} (hp : s.phase = .await)
    (hh : headerAgrees s r) (hfc : s.pendFc = fc.toByte) :
    (r.body = [] → exec (excRow r fc) s =
      .next (failed (received s (rspFrame (fc.toByte ||| 0x80) r)) .protocolError 8 0 (kindOfOp fc.toByte))) ∧
    (∀ code rest, r.body = code :: rest → exec (excRow r fc) s =
      .next (failed (received s (rspFrame (fc.toByte ||| 0x80) r)) .protocolError 7 code (kindOfOp fc.toByte))) := by
  refine ⟨fun hb => ?_, fun code rest hb => ?_⟩
  · rw [exec_excRow_await hp hh hfc, bodyExc_rspFrame_nil hb]
    rfl
  · rw [exec_excRow_await hp hh hfc, bodyExc_rspFrame_cons hb]
    rfl

/-- The rows that O21 lists are the exception rows of the eight function codes, with the kinds of R33. -/
theorem mem_excRows {r : RspFrame} {f : Byte} {i : Instr} {kind : ResKind}
    (h : (f, i, kind) ∈ [((0x01 : Byte), Instr.readCoilsExc r, ResKind.bits),
      (0x02, .readDiscreteInputsExc r, .bits), (0x03, .readHoldingRegistersExc r, .words),
      (0x04, .readInputRegistersExc r, .words), (0x05, .writeSingleCoilExc r, .flag),
      (0x06, .writeSingleRegisterExc r, .flag), (0x0F, .writeMultipleCoilsExc r, .flag),
      (0x10, .writeMultipleRegistersExc r, .flag)]) :
    ∃ fc : FunctionCode, f = fc.toByte ∧ i = excRow r fc ∧ kind = kindOfOp fc.toByte := by
  simp only [List.mem_cons, Prod.mk.injEq, List.not_mem_nil, or_false] at h
  rcases h with h | h | h | h | h | h | h | h
  · exact ⟨.readCoils, h⟩
  · exact ⟨.readDiscreteInputs, h⟩
  · exact ⟨.readHoldingRegisters, h⟩
  · exact ⟨.readInputRegisters, h⟩
  · exact ⟨.writeSingleCoil, h⟩
  · exact ⟨.writeSingleRegister, h⟩
  · exact ⟨.writeMultipleCoils, h⟩
  · exact ⟨.writeMultipleRegisters, h⟩

/-- Settles O21: the body's first byte, if there is one, stands at offset 8, where R167 reads the code. -/
theorem exceptionResponsesReportTheirCode : Obligations.ExceptionResponsesReportTheirCode := by
  intro s r hp hh f i kind hmem hfc
  obtain ⟨fc, rfl, rfl, rfl⟩ := mem_excRows hmem
  obtain ⟨hempty, hcode⟩ := exec_excRow_body hp hh hfc
  split
  · exact hempty ‹_›
  · exact hcode _ _ ‹_›

end Sys2Proof.Machine

/-! ## The conversion port (42_register_conversion.md R200 to R204; 44_dispatcher.md R254) -/

namespace Sys2Proof.Machine

/-! ### Composing two words -/

theorem composeHighLow_toNat (a b : Word) : (composeHighLow a b).toNat = a.toNat * 65536 + b.toNat := by
  rw [composeHighLow, BitVec.toNat_append, ← Nat.shiftLeft_add_eq_or_of_lt b.isLt, Nat.shiftLeft_eq]

/-- The two word orders differ by a swap of the words (R202). -/
theorem composeHighLow_swap (a b : Word) : composeHighLow b a = composeLowHigh a b := rfl

theorem composeLowHigh_toNat (a b : Word) : (composeLowHigh a b).toNat = b.toNat * 65536 + a.toNat := by
  rw [← composeHighLow_swap, composeHighLow_toNat]

@[simp] theorem registersToFloat_pair (compose : Word → Word → BitVec 32) (a b : Word) :
    registersToFloat compose [a, b] = .value (compose a b) := rfl

/-- Any number of words but two is refused, in either order (R200). -/
theorem registersToFloat_of_length_ne_two (compose : Word → Word → BitVec 32) {words : List Word}
    (h : words.length ≠ 2) : registersToFloat compose words = .error .notTwoWords := by
  match words with
  | [] | [_] | _ :: _ :: _ :: _ => rfl
  | [_, _] => exact absurd rfl h

theorem exec_r2fLH (words : List Word) (s : State) :
    exec (.r2fLH words) s = .next { s with convOut := registersToFloat composeLowHigh words } := rfl

theorem exec_r2fHL (words : List Word) (s : State) :
    exec (.r2fHL words) s = .next { s with convOut := registersToFloat composeHighLow words } := rfl

/-- Settles O26: the two orders are swaps of one composition, and every other length is refused alike. -/
theorem registersToFloatComposes : Obligations.RegistersToFloatComposes := by
  intro s
  refine ⟨fun a b => ⟨composeLowHigh a b, composeHighLow a b, composeLowHigh_toNat a b, composeHighLow_toNat a b,
    ?_, ?_, ?_⟩, fun words h => ⟨?_, ?_⟩⟩
  · rw [exec_r2fLH, registersToFloat_pair]
  · rw [exec_r2fHL, registersToFloat_pair]
  · rw [exec_r2fHL, exec_r2fLH, registersToFloat_pair, registersToFloat_pair, composeHighLow_swap]
  · rw [exec_r2fLH, registersToFloat_of_length_ne_two _ h]
  · rw [exec_r2fHL, registersToFloat_of_length_ne_two _ h]

/-! ### The signed reading -/

/-- Sign extension keeps the two's-complement value, which R204 writes as a case on bit 15. -/
theorem signedReading_toInt (w : Word) :
    (signedReading w).toInt = if 0x8000 ≤ w.toNat then (w.toNat : Int) - 65536 else (w.toNat : Int) := by
  have hvalue : (signedReading w).toInt = w.toInt := BitVec.toInt_signExtend_of_le (by decide)
  rw [hvalue, BitVec.toInt_eq_toNat_cond]
  split <;> split <;> omega

theorem exec_s16 (w : Word) (s : State) :
    exec (.s16 w) s = .next { s with convOut := .value (signedReading w) } := rfl

/-- Settles O27: the port shows the sign extension of the word. -/
theorem signedReadingOfAWord : Obligations.SignedReadingOfAWord :=
  fun s w => ⟨signedReading w, exec_s16 w s, signedReading_toInt w⟩

end Sys2Proof.Machine

/-! ## The transaction counter (43_transaction_tracker.md R220 to R224) -/

namespace Sys2Proof.Machine

/-- A command that need not wait has its step: the phase is IDLE (R249). -/
theorem enabledIn_cmd_of_not_mustWait {p : Phase} {c : Command} (h : mustWait p (.cmd c) = false) :
    enabledIn p (.cmd c) = true :=
  decide_eq_true (not_not.1 (of_decide_eq_false h))

/-- A command that has its step draws an identifier, whether `ENC` then refuses it or not (R220, R223). -/
theorem Effect.cmd_tid {s t : State} {c : Command} (h : Effect s (.cmd c) t)
    (henabled : enabledIn s.phase (.cmd c) = true) : t.tid = s.tid + 1 := by
  cases h with
  | disabled hx => exact absurd henabled (Bool.eq_false_iff.1 hx)
  | failed _ he => cases he
  | refused => rw [raise_tid, spendTid_tid]
  | presented => rw [latchRequest_tid, spendTid_tid]

/-- `Reset` has its step in every phase and restarts the counter (R35, R310). -/
theorem Effect.reset_tid {s t : State} (h : Effect s .reset t) : t.tid = 0 := by
  cases h with
  | disabled hx => cases hx
  | failed _ he => cases he
  | reset => exact resetBlock_tid s

/-- `TID` is the command's and `Reset`'s to write: no transport event and no response content moves it (R224). -/
theorem Effect.keeps_tid {s t : State} {x : Input} (h : Effect s x t) (hreset : x ≠ .reset)
    (hcmd : ∀ c, x ≠ .cmd c) : t.tid = s.tid := by
  cases h with
  | refused | presented => exact absurd rfl (hcmd _)
  | reset => exact absurd rfl hreset
  | disabled | sent | failed | answered | unitSet | shown | converted => simp

/-- Settles O40, over the effects of one event: a command draws, `Reset` restarts, the rest keep. -/
theorem tidMovesOnlyByNext : Obligations.TidMovesOnlyByNext := by
  intro s t x rest hi hw h
  have heffect := step_effect hi hw h
  cases x with
  | cmd c => exact heffect.cmd_tid (enabledIn_cmd_of_not_mustWait hw)
  | reset => exact heffect.reset_tid
  | setUnit | read | conv | txDone | rxFrame | rxFail | rxTimeout | abort =>
    exact heffect.keeps_tid nofun nofun

end Sys2Proof.Machine

/-! ## The steps of the dispatcher: which instruction a port runs (44_dispatcher.md R230, R232, R234, R238, R254) -/

namespace Sys2Proof.Machine

/-- In IDLE no event has to wait (R249). -/
theorem mustWait_idle {p : Phase} (hp : p = .idle) (x : Input) : mustWait p x = false := by
  cases x with
  | cmd => exact decide_eq_false (not_not_intro hp)
  | setUnit | read | conv | reset | txDone | rxFrame | rxFail | rxTimeout | abort => rfl

/-- The step on a command in IDLE takes it at the command port (R232). -/
theorem step_cmd {s : State} {c : Command} {rest : List Input} (hp : s.phase = .idle)
    (hi : s.inputs = .cmd c :: rest) : step s = acceptCommand c { s with inputs := rest } :=
  step_head hi (mustWait_idle hp _)

/-- Settles O15: a request is the CMD step, which is not enabled outside IDLE. That `exec` answers the unchanged state
there is the model's form of R249 (log entry 20). -/
theorem busyRequestChangesNothing : Obligations.BusyRequestChangesNothing := by
  intro s i hi hp
  obtain ⟨c, hc⟩ := Option.isSome_iff_exists.1 hi
  rw [exec_request hc, command_busy _ _ _ _ hp]

/-- Settles O28, at the command port. -/
theorem stepRunsTheCommand : Obligations.StepRunsTheCommand := by
  intro s c i rest hp hi hdecode
  rw [step_cmd hp hi]
  simp only [acceptCommand, hdecode]

/-- Settles O29: a frame that is a row has bytes, so it is no RX_FAIL. -/
theorem stepRunsTheResponse : Obligations.StepRunsTheResponse := by
  intro s raw i rest hp hi hdecode
  have hraw : raw ≠ [] := by
    rintro rfl
    cases hdecode
  rw [step_head hi rfl, accept, acceptFrame, if_pos hp, if_neg hraw]
  simp only [hdecode]

theorem acceptConv_reserved {p : ConvInput} (h : p.op = 0b11) (s : State) :
    acceptConv p s = .refused .reservedConvOp := by
  simp [acceptConv, decodeConv, h]

/-- The conversion port in any state: a value that the operands alone fix, or the refusal of the reserved `conv_op`
(R114, R254). -/
theorem acceptConv_cases (p : ConvInput) :
    (∃ out, ∀ s, acceptConv p s = .next (convShow out s)) ∨
      (p.op = 0b11 ∧ ∀ s, acceptConv p s = .refused .reservedConvOp) := by
  by_cases h0 : p.op = 0b00
  · exact .inl ⟨registersToFloat composeLowHigh p.words, fun s => by rw [acceptConv, decodeConv, if_pos h0]; rfl⟩
  by_cases h1 : p.op = 0b01
  · exact .inl ⟨registersToFloat composeHighLow p.words, fun s => by
      rw [acceptConv, decodeConv, if_neg h0, if_pos h1]; rfl⟩
  by_cases h2 : p.op = 0b10
  · exact .inl ⟨.value (signedReading p.word), fun s => by
      rw [acceptConv, decodeConv, if_neg h0, if_neg h1, if_pos h2]; rfl⟩
  have hcover : ∀ op : BitVec 2, op ≠ 0b00 → op ≠ 0b01 → op ≠ 0b10 → op = 0b11 := by decide
  have hop := hcover p.op h0 h1 h2
  exact .inr ⟨hop, acceptConv_reserved hop⟩

/-- Settles O30. That `conv_op` = 11 is refused by name is the model's form of R114's "no operation" (log entry 11). -/
theorem stepRunsTheConversion : Obligations.StepRunsTheConversion := by
  intro s p rest hi
  rw [step_head hi rfl, accept]
  refine ⟨fun i hdecode => ?_, fun hop => acceptConv_reserved hop _⟩
  simp only [acceptConv, hdecode]

/-- Settles O36: SetUnit needs no phase and is one field update. -/
theorem setUnitWritesCfgUnit : Obligations.SetUnitWritesCfgUnit := fun _ _ _ hi => step_head hi rfl

end Sys2Proof.Machine

/-! ## The CMD step on a command record, and what the transport is then shown (44_dispatcher.md R231, R232) -/

namespace Sys2Proof.Machine

/-- The step on a command that `ENC` refuses, in IDLE (R223, R232, R280). -/
theorem step_refuses {s : State} {c : Command} {d : EncDetail} {rest : List Input} (hp : s.phase = .idle)
    (he : enc config s.tid s.cfgUnit c = .error d) (hi : s.inputs = .cmd c :: rest) :
    step s = .next (encodingFailed { s with inputs := rest } (encCode d) (kindOfOp c.op)) := by
  rw [step_cmd hp hi, acceptCommand_eq]
  exact he ▸ command_refuses c.op c.addr (expectOf c) d (s := { s with inputs := rest }) hp

/-- Settles O51: both outcomes of `ENC` for the identifier in `TID` and the unit in `CFG_UNIT`. -/
theorem commandStepPresentsEnc : Obligations.CommandStepPresentsEnc :=
  fun _ _ _ hp hi => ⟨fun _ he => step_presents hp he hi, fun _ he => step_refuses hp he hi⟩

/-- The frame `ENC` gives for a request's record is the request's own encoding, which carries it whole (R93 to R95,
R131). -/
theorem encode_of_enc {i : Instr} {c : Command} {t : Word} {u : Byte} {frame : List Byte}
    (hi : encodeCommand i = some c) (he : enc config t u c = .ok frame) :
    encode t u i = .request frame ∧ i.wellFormed = true := by
  cases i
  case readCoils | readDiscreteInputs | readHoldingRegisters | readInputRegisters =>
    cases hi
    obtain ⟨-, -, hframe⟩ := checkQuantity_ok.1 he
    cases hframe
    exact ⟨rfl, rfl⟩
  case writeSingleCoil | writeSingleRegister =>
    cases hi
    cases he
    exact ⟨rfl, rfl⟩
  case writeMultipleCoils addr qty bits =>
    cases hi
    obtain ⟨-, (hmax : qty.toNat ≤ 2000), hframe⟩ := checkQuantity_ok.1 he
    split_ifs at hframe with hlen
    cases hframe
    exact ⟨rfl, Bool.and_eq_true_iff.2 ⟨decide_eq_true (not_not.1 hlen), decide_eq_true (by omega)⟩⟩
  case writeMultipleRegisters addr qty words =>
    cases hi
    obtain ⟨-, (hmax : qty.toNat ≤ 125), hframe⟩ := checkQuantity_ok.1 he
    split_ifs at hframe with hlen
    cases hframe
    exact ⟨rfl, Bool.and_eq_true_iff.2 ⟨decide_eq_true (not_not.1 hlen), decide_eq_true (by omega)⟩⟩
  all_goals cases hi

/-- A frame that `ENC` returns is read back as its request, and nothing follows it (R92, R140). -/
theorem decodeRequest_of_enc {i : Instr} {c : Command} {t : Word} {u : Byte} {frame : List Byte}
    (hi : encodeCommand i = some c) (he : enc config t u c = .ok frame) : decodeRequest frame = .ok (i, []) := by
  obtain ⟨hencode, hwf⟩ := encode_of_enc hi he
  have hdecode := decodeAfterEncode t u i hwf
  rw [hencode, decode] at hdecode
  rcases hread : decodeRequest frame with e | ⟨j, rest⟩ <;> rw [hread] at hdecode <;> cases hdecode
  obtain ⟨hwhole, hrest, -⟩ := requestDecodingAgreesWithLength frame rest _ hread
  have hlength := requestLengthFieldCountsTheRest config t u c frame config_limitsFit he
  rw [hrest, List.drop_of_length_le (by omega)]

/-- A request that goes from IDLE to SEND was accepted by `ENC` (R232). -/
theorem exec_request_send {i : Instr} {c : Command} {s t : State} (hi : encodeCommand i = some c)
    (hp : s.phase = .idle) (h : exec i s = .next t) (ht : t.phase = .send) :
    ∃ frame, enc config s.tid s.cfgUnit c = .ok frame ∧
      t = latchRequest c.op c.addr (expectOf c) frame (s.txb.writeAll 0 frame) s.tid (spendTid s) := by
  rw [exec_request hi] at h
  rcases command_cases h with ⟨hbusy, -⟩ | ⟨-, d, -, rfl⟩ | ⟨-, frame, he, -, rfl⟩
  · exact absurd hp hbusy
  · cases ht
  · exact ⟨frame, he, rfl⟩

/-- Settles O9: `TXB` holds the frame of `ENC`, which is the request's encoding, and encodings decode. -/
theorem presentedFrameIsTheCommand : Obligations.PresentedFrameIsTheCommand := by
  intro s t i hsome hp h ht
  obtain ⟨c, hc⟩ := Option.isSome_iff_exists.1 hsome
  obtain ⟨frame, he, rfl⟩ := exec_request_send hc hp h ht
  have hload := (inFlightAgrees_latchRequest he).presented
  refine ⟨frame, ?_, decodeRequest_of_enc hc he⟩
  rw [presented, if_pos ht, config_txbSize, hload]
  rfl

end Sys2Proof.Machine

/-! ## The RX_FRAME step computes `DEC` (44_dispatcher.md R234) -/

namespace Sys2Proof.Machine

/-- The instructions that a response frame encodes are the two rows of a function code (R107). -/
theorem row_of_encode_response {i : Instr} {t : Word} {u : Byte} {raw : List Byte}
    (h : encode t u i = .response raw) :
    ∃ (r : RspFrame) (fc : FunctionCode),
      (i = rspRow r fc ∧ raw = rspFrame fc.toByte r) ∨ (i = excRow r fc ∧ raw = rspFrame (fc.toByte ||| 0x80) r) := by
  cases i with
  | readCoilsRsp r => cases h; exact ⟨r, .readCoils, .inl ⟨rfl, rfl⟩⟩
  | readDiscreteInputsRsp r => cases h; exact ⟨r, .readDiscreteInputs, .inl ⟨rfl, rfl⟩⟩
  | readHoldingRegistersRsp r => cases h; exact ⟨r, .readHoldingRegisters, .inl ⟨rfl, rfl⟩⟩
  | readInputRegistersRsp r => cases h; exact ⟨r, .readInputRegisters, .inl ⟨rfl, rfl⟩⟩
  | writeSingleCoilRsp r => cases h; exact ⟨r, .writeSingleCoil, .inl ⟨rfl, rfl⟩⟩
  | writeSingleRegisterRsp r => cases h; exact ⟨r, .writeSingleRegister, .inl ⟨rfl, rfl⟩⟩
  | writeMultipleCoilsRsp r => cases h; exact ⟨r, .writeMultipleCoils, .inl ⟨rfl, rfl⟩⟩
  | writeMultipleRegistersRsp r => cases h; exact ⟨r, .writeMultipleRegisters, .inl ⟨rfl, rfl⟩⟩
  | readCoilsExc r => cases h; exact ⟨r, .readCoils, .inr ⟨rfl, rfl⟩⟩
  | readDiscreteInputsExc r => cases h; exact ⟨r, .readDiscreteInputs, .inr ⟨rfl, rfl⟩⟩
  | readHoldingRegistersExc r => cases h; exact ⟨r, .readHoldingRegisters, .inr ⟨rfl, rfl⟩⟩
  | readInputRegistersExc r => cases h; exact ⟨r, .readInputRegisters, .inr ⟨rfl, rfl⟩⟩
  | writeSingleCoilExc r => cases h; exact ⟨r, .writeSingleCoil, .inr ⟨rfl, rfl⟩⟩
  | writeSingleRegisterExc r => cases h; exact ⟨r, .writeSingleRegister, .inr ⟨rfl, rfl⟩⟩
  | writeMultipleCoilsExc r => cases h; exact ⟨r, .writeMultipleCoils, .inr ⟨rfl, rfl⟩⟩
  | writeMultipleRegistersExc r => cases h; exact ⟨r, .writeMultipleRegisters, .inr ⟨rfl, rfl⟩⟩
  | readCoils | readDiscreteInputs | readHoldingRegisters | readInputRegisters | writeSingleCoil
  | writeSingleRegister | writeMultipleCoils | writeMultipleRegisters | r2fLH | r2fHL | s16 => cases h

/-- Two body rules make no difference unless the frame has the pending function code and is no exception (R160,
lines 6 to 8). -/
theorem decWith_congr_body {body body' : Pending → List Byte → Except ProtoDetail DecResult} {p : Pending}
    {raw : List Byte} (h : byteAt raw 7 = p.fc → byteAt raw 7 ≠ (p.fc ||| 0x80) → body p raw = body' p raw) :
    decWith body p raw = decWith body' p raw := by
  by_cases hexc : byteAt raw 7 = (p.fc ||| 0x80)
  · exact decWith_exception body body' hexc
  by_cases hown : byteAt raw 7 = p.fc
  · simp only [decWith, h hown hexc]
  · simp only [decWith, if_neg hexc, if_pos hown]

/-- Every response instruction is the RX_FRAME step with the whole `DEC`, under any pending record: under another
`PEND_FC` than its own neither comes to a body rule (R160, R234). -/
theorem exec_response_dec {i : Instr} {t : Word} {u : Byte} {raw : List Byte} (h : encode t u i = .response raw)
    (s : State) : exec i s = receive raw (dec (pendingOf s) raw) s := by
  obtain ⟨r, fc, ⟨rfl, rfl⟩ | ⟨rfl, rfl⟩⟩ := row_of_encode_response h
  · obtain ⟨-, -, -, -, h7⟩ := rspFrame_fields fc.toByte r
    have hbody : byteAt (rspFrame fc.toByte r) 7 = (pendingOf s).fc → bodyOf fc.toByte = bodyOf (pendingOf s).fc :=
      fun hown => by rw [← hown, h7]
    rw [exec_rspRow, receiveRow, dec,
      decWith_congr_body fun hown _ => congrFun (congrFun (hbody hown) (pendingOf s)) _]
  · obtain ⟨-, -, -, -, h7⟩ := rspFrame_fields (fc.toByte ||| 0x80) r
    have hbit : (fc.toByte ||| 0x80 ||| 0x80 : Byte) = (fc.toByte ||| 0x80) := by
      rw [BitVec.or_assoc, BitVec.or_self]
    rw [exec_excRow, receiveRow, dec,
      decWith_congr_body fun hown hexc => absurd (by rw [← hown, h7, hbit]) hexc]

/-- The completion with what `DEC` answers, written out (R234, R248, R280). -/
theorem finish_dec_received (s : State) (raw : List Byte) :
    finish (dec (pendingOf s) raw) (received s raw) = afterRxFrame s raw := by
  unfold afterRxFrame
  rcases dec (pendingOf s) raw with d | (l | l | _)
  · cases d <;> rfl
  · rfl
  · rfl
  · rfl

/-- Settles O23: a row, executed or taken from the port, and a frame that is no row run the RX_FRAME step with
`DEC`. -/
theorem responseRowsComputeDec : Obligations.ResponseRowsComputeDec := by
  intro s raw hp
  refine ⟨fun i t u hencode => ?_, fun rest hraw hi => ?_⟩
  · rw [exec_response_dec hencode, receive_eq, if_pos hp, latchResponse_eq_received, finish_dec_received]
  · rw [step_head hi rfl, accept, acceptFrame_await (s := { s with inputs := rest }) hp hraw,
      latchResponse_eq_received, finish_dec_received]

end Sys2Proof.Machine

/-! ## A waiting command, and the stops of the step (44_dispatcher.md R249, R254; 20_memory.md R60) -/

namespace Sys2Proof.Machine

/-- `r` with other lists at the ports of its next state, if it has one. -/
def withInputs (l : List Input) : Result → Result
  | .next t => .next { t with inputs := l }
  | .fault f => .fault f
  | .refused r => .refused r

/-- What a host read shows does not depend on the ports' lists or on what was shown before (R239). -/
theorem readReg_with_ports (s : State) (l : List Input) (v : Option (BitVec 16)) (r : HostReg) :
    readReg { s with inputs := l, readOut := v } r = readReg s r := by
  cases r <;> rfl

/-- The completion of `DEC` leaves the ports' lists alone. -/
theorem finish_with_inputs (r : Except ProtoDetail DecResult) (s : State) (l : List Input) :
    finish r { s with inputs := l } = { finish r s with inputs := l } := by
  rcases r with e | (_ | _ | _) <;> rfl

/-- The command port does not look at the ports' lists. -/
theorem acceptCommand_with_inputs (c : Command) (s : State) (l : List Input) :
    acceptCommand c { s with inputs := l } = withInputs l (acceptCommand c s) := by
  rw [acceptCommand_eq, acceptCommand_eq]
  by_cases hp : s.phase = .idle
  · rcases he : enc config s.tid s.cfgUnit c with d | frame
    · rw [command_refuses _ _ _ d hp, command_refuses (s := { s with inputs := l }) _ _ _ d hp]
      rfl
    · have hlen := enc_ok_length he
      rw [command_accepts _ _ _ hp hlen, command_accepts (s := { s with inputs := l }) _ _ _ hp hlen]
      rfl
  · rw [command_busy _ _ _ _ hp, command_busy (s := { s with inputs := l }) _ _ _ _ hp]
    rfl

/-- The receive port does not look at the ports' lists. -/
theorem acceptFrame_with_inputs (raw : List Byte) (s : State) (l : List Input) :
    acceptFrame raw { s with inputs := l } = withInputs l (acceptFrame raw s) := by
  by_cases hp : s.phase = .await
  · rcases eq_or_ne raw [] with rfl | hraw
    · simp only [acceptFrame, rxFail, if_pos hp]
      rfl
    · rw [acceptFrame_await hp hraw, acceptFrame_await (s := { s with inputs := l }) hp hraw]
      exact congrArg Host.Outcome.next
        (finish_with_inputs (dec (pendingOf s) raw) (latchResponse raw (s.rxb.writeAll 0 (raw.take 259)) s) l)
  · rw [acceptFrame, acceptFrame, if_neg hp, if_neg hp]
    rfl

/-- Taking an event does not look at what else stands at the ports (R230). -/
theorem accept_with_inputs (x : Input) (s : State) (l : List Input) :
    accept x { s with inputs := l } = withInputs l (accept x s) := by
  cases x with
  | cmd c => exact acceptCommand_with_inputs c s l
  | setUnit u => rfl
  | read r =>
    rw [accept, accept, hostRead, hostRead]
    split_ifs
    · exact congrArg (fun v => Host.Outcome.next { s with inputs := l, readOut := v })
        (readReg_with_ports s l s.readOut r)
    · rfl
  | conv p =>
    rw [accept, accept]
    rcases acceptConv_cases p with ⟨out, hout⟩ | ⟨-, hrefused⟩
    · rw [hout, hout]
      rfl
    · rw [hrefused, hrefused]
      rfl
  | reset => rfl
  | txDone ok =>
    simp only [accept, txDone]
    split_ifs <;> rfl
  | rxFrame raw => exact acceptFrame_with_inputs raw s l
  | rxFail =>
    simp only [accept, rxFail]
    split_ifs <;> rfl
  | rxTimeout =>
    simp only [accept, rxTimeout]
    split_ifs <;> rfl
  | abort =>
    simp only [accept, abort]
    split_ifs <;> rfl

/-- Settles O16: the waiting command is passed over, and the event taken behind it leaves the ports' lists alone. That
a waiting command stands in `State.inputs` and is overtaken there is the model's choice (log entry 5). -/
theorem busyCommandWaits : Obligations.BusyCommandWaits := by
  intro s c rest hp hi
  have htake : takeInput s.phase s.inputs = (takeInput s.phase rest).map fun y => (y.1, .cmd c :: y.2) := by
    rw [hi, takeInput_waiting hp]
  unfold step stepPorts
  rw [htake]
  rcases takeInput s.phase rest with _ | ⟨x, behind⟩
  · exact congrArg (fun l => Host.Outcome.next { s with inputs := l }) hi
  · simp only [Option.map_some]
    rw [accept_with_inputs x s (.cmd c :: behind), accept_with_inputs x s behind]
    cases accept x s <;> rfl

/-- The receive port answers a next state for every frame, in every phase (R234, R279). -/
theorem acceptFrame_next (raw : List Byte) (s : State) : ∃ t, acceptFrame raw s = .next t := by
  by_cases hp : s.phase = .await
  · rcases eq_or_ne raw [] with rfl | hraw
    · exact ⟨_, by rw [acceptFrame, if_pos hp, if_pos rfl]⟩
    · exact ⟨_, acceptFrame_await hp hraw⟩
  · exact ⟨_, by rw [acceptFrame, if_neg hp]⟩

/-- Taking an event answers a next state, or is a host read of an element that does not exist, or a conversion with
the reserved `conv_op` (R37, R60, R254). -/
theorem accept_cases (x : Input) (s : State) :
    (∃ t, accept x s = .next t) ∨
    (∃ r, x = .read r ∧ hostRegExists r = false ∧ accept x s = .fault .outsideBuffer) ∨
    (∃ p, x = .conv p ∧ p.op = 0b11 ∧ accept x s = .refused .reservedConvOp) := by
  cases x with
  | cmd c =>
    rw [accept, acceptCommand_eq]
    exact .inl (command_next _ _ _ _ s fun _ => enc_ok_length)
  | read r =>
    rw [accept, hostRead]
    cases hexists : hostRegExists r
    · exact .inr (.inl ⟨r, rfl, hexists, rfl⟩)
    · exact .inl ⟨_, rfl⟩
  | conv p =>
    rw [accept]
    rcases acceptConv_cases p with ⟨out, hout⟩ | ⟨hop, hrefused⟩
    · exact .inl ⟨_, hout s⟩
    · exact .inr (.inr ⟨p, rfl, hop, hrefused s⟩)
  | rxFrame raw => exact .inl (acceptFrame_next raw s)
  | setUnit | reset | txDone | rxFail | rxTimeout | abort => exact .inl ⟨_, rfl⟩

/-- The registers exist, and of the result elements 2000 bits and 125 words (R33, R60). -/
theorem hostRegExists_eq_false {r : HostReg} (h : hostRegExists r = false) :
    (∃ i, r = .resBit i ∧ 2000 ≤ i) ∨ (∃ i, r = .resWord i ∧ 125 ≤ i) := by
  cases r
  case resBit i => exact .inl ⟨i, rfl, Nat.le_of_not_lt (of_decide_eq_false h)⟩
  case resWord i => exact .inr ⟨i, rfl, Nat.le_of_not_lt (of_decide_eq_false h)⟩
  all_goals cases h

/-- A step takes an event that stands at the ports, or answers the same state (R230, R327). -/
theorem step_takes (s : State) :
    step s = .next s ∨ ∃ x rest, x ∈ s.inputs ∧ step s = accept x { s with inputs := rest } := by
  unfold step stepPorts
  rcases htake : takeInput s.phase s.inputs with _ | ⟨x, rest⟩
  · exact .inl rfl
  · obtain ⟨-, front, back, hsplit, -, -⟩ := takeInput_some htake
    exact .inr ⟨x, rest, by simp [hsplit], rfl⟩

/-- Settles O32: both stops come from the event taken, which stood among the inputs. The stops are the model's (log
entries 11 and 14). -/
theorem stepStopsOnlyOutsideTheSpec : Obligations.StepStopsOnlyOutsideTheSpec := by
  intro s
  rcases step_takes s with hstep | ⟨x, rest, hmem, hstep⟩ <;> rw [hstep]
  · exact ⟨nofun, nofun⟩
  rcases accept_cases x { s with inputs := rest } with ⟨t, ht⟩ | ⟨r, rfl, hexists, hfault⟩ | ⟨p, rfl, hop, hrefused⟩
  · rw [ht]
    exact ⟨nofun, nofun⟩
  · rw [hfault]
    refine ⟨?_, nofun⟩
    rintro f ⟨⟩
    exact ⟨rfl, r, hmem, hostRegExists_eq_false hexists⟩
  · rw [hrefused]
    refine ⟨nofun, ?_⟩
    rintro r ⟨⟩
    exact ⟨rfl, p, hmem, hop⟩

end Sys2Proof.Machine

/-! ## The transport's events that carry no frame (44_dispatcher.md R233, R235 to R237; 60_exceptions.md R280) -/

namespace Sys2Proof.Machine

/-- A transport event that ends the command in flight, in a phase that has its step (R280). -/
theorem accept_transportError {x : Input} {e : Error} {s : State} (hx : enabledIn s.phase x = true)
    (he : transportError x = some e) : accept x s = .next (raise s.pendFc e s) := by
  cases x with
  | txDone ok =>
    cases ok <;> cases he
    simp only [accept, txDone, if_pos (of_decide_eq_true hx), Bool.false_eq_true, if_false]
  | rxFrame raw =>
    cases raw <;> cases he
    simp only [accept, acceptFrame, rxFail, if_pos (of_decide_eq_true hx), if_true]
  | rxFail =>
    cases he
    simp only [accept, rxFail, if_pos (of_decide_eq_true hx)]
  | rxTimeout =>
    cases he
    simp only [accept, rxTimeout, if_pos (of_decide_eq_true hx)]
  | abort =>
    cases he
    simp only [accept, abort, if_pos (of_decide_eq_true hx)]
  | cmd | setUnit | read | conv | reset => cases he

/-- The step on such an event at the head of the ports. -/
theorem step_transportError {x : Input} {e : Error} {s : State} {rest : List Input} (hi : s.inputs = x :: rest)
    (hx : enabledIn s.phase x = true) (he : transportError x = some e) :
    step s = .next (raise s.pendFc e { s with inputs := rest }) := by
  have hw : mustWait s.phase x = false := by
    cases x with
    | cmd => cases he
    | setUnit | read | conv | reset | txDone | rxFrame | rxFail | rxTimeout | abort => rfl
  rw [step_head hi hw, accept_transportError (s := { s with inputs := rest }) hx he]

/-- Settles O33: the events with an error complete as R280 says, with the detail of their error. -/
theorem transportEventsComplete : Obligations.TransportEventsComplete := by
  intro s rest
  refine ⟨fun hp hi => step_sent hp hi, fun hp hi => step_transportError hi (decide_eq_true hp) rfl, fun hp hi => ?_,
    fun hp hi => step_transportError hi (decide_eq_true hp) rfl,
    fun hp hi => step_transportError hi (decide_eq_true hp) rfl, fun hp hi => ?_⟩
  · rcases hi with hi | hi <;> exact step_transportError hi (decide_eq_true hp) rfl
  · have hidle : ¬(s.phase = .send ∨ s.phase = .await) := by simp [hp]
    rw [step_head hi rfl, accept, abort, if_neg hidle]

end Sys2Proof.Machine

/-! ## The transition table (44_dispatcher.md R251) -/

namespace Sys2Proof.Machine

/-- The table has no row for an event outside its phases (R249, R251, R279). -/
theorem transition_disabled {s : State} {x : Input} (hx : enabledIn s.phase x = false) :
    transition s x = (s.phase, none) := by
  cases x with
  | cmd => exact if_neg (of_decide_eq_false hx)
  | txDone ok => cases ok <;> exact if_neg (of_decide_eq_false hx)
  | rxFrame | rxFail | rxTimeout | abort => exact if_neg (of_decide_eq_false hx)
  | setUnit | read | conv | reset => cases hx

/-- The rows of the events that end the command in flight with an error (R233, R235 to R237, R251). -/
theorem transition_transportError {s : State} {x : Input} {e : Error} (hx : enabledIn s.phase x = true)
    (he : transportError x = some e) : transition s x = (.idle, some (errorStatus e, errorDetail e)) := by
  cases x with
  | txDone ok =>
    cases ok <;> cases he
    exact if_pos (of_decide_eq_true hx)
  | rxFrame raw =>
    cases raw <;> cases he
    exact if_pos (of_decide_eq_true hx)
  | rxFail | rxTimeout | abort =>
    cases he
    exact if_pos (of_decide_eq_true hx)
  | cmd | setUnit | read | conv | reset => cases he

theorem transition_refused {s : State} {c : Command} {d : EncDetail} (hp : s.phase = .idle)
    (he : enc config s.tid s.cfgUnit c = .error d) :
    transition s (.cmd c) = (.idle, some (.encodingError, encCode d)) := by
  simp only [transition, if_pos hp, he]

theorem transition_presented {s : State} {c : Command} {frame : List Byte} (hp : s.phase = .idle)
    (he : enc config s.tid s.cfgUnit c = .ok frame) : transition s (.cmd c) = (.send, none) := by
  simp only [transition, if_pos hp, he]

theorem transition_sent {s : State} (hp : s.phase = .send) : transition s (.txDone true) = (.await, none) := if_pos hp

/-- `RES_OK` is 1 exactly for the status OK (R32). -/
theorem okFlag_eq_decide (st : Status) : okFlag st = decide (st = .ok) := by
  cases st <;> rfl

/-- The row of a received frame is the completion that `DEC` brings (R234, R251, R280). -/
theorem transition_answered {s : State} {raw : List Byte} (hp : s.phase = .await) (hraw : raw ≠ []) (s' : State) :
    transition s (.rxFrame raw) =
      (.idle, some ((finish (dec (pendingOf s) raw) s').resStatus, (finish (dec (pendingOf s) raw) s').resDetail)) := by
  simp only [transition, if_pos hp, if_neg hraw]
  rcases dec (pendingOf s) raw with e | (_ | _ | _) <;> rfl

/-- `RES_OK` goes with the status of every completion by RX_FRAME (R32, R234). -/
theorem finish_resOk (r : Except ProtoDetail DecResult) (s : State) :
    (finish r s).resOk = decide ((finish r s).resStatus = .ok) := by
  rcases r with e | (_ | _ | _) <;> rfl

/-- Settles O39: the effect of each event is the row that the table has for it. -/
theorem phaseFollowsTheTable : Obligations.PhaseFollowsTheTable := by
  intro s t x rest hi hw h
  cases step_effect hi hw h with
  | disabled hx =>
    rw [transition_disabled (s := s) hx]
    cases x with
    | cmd => exact absurd (enabledIn_cmd_of_not_mustWait hw) (Bool.eq_false_iff.1 hx)
    | reset => cases hx
    | setUnit | read | conv | txDone | rxFrame | rxFail | rxTimeout | abort => exact ⟨rfl, rfl⟩
  | refused hp he =>
    rw [transition_refused (s := s) hp he]
    exact ⟨rfl, rfl, rfl, rfl, rfl⟩
  | presented hp he =>
    rw [transition_presented (s := s) hp he]
    exact ⟨rfl, rfl⟩
  | sent hp =>
    rw [transition_sent (s := s) hp]
    exact ⟨rfl, rfl⟩
  | failed hx he =>
    rw [transition_transportError (s := s) hx he]
    exact ⟨rfl, rfl, rfl, rfl, okFlag_eq_decide _⟩
  | @answered raw hp hraw =>
    have hrow := transition_answered (s := s) hp hraw (received { s with inputs := rest } raw)
    obtain ⟨hphase, hvalid, -⟩ := finish_frame (dec (pendingOf s) raw) (received { s with inputs := rest } raw)
    rw [hrow]
    exact ⟨hphase, hvalid, rfl, rfl, finish_resOk _ _⟩
  | unitSet | shown | converted | reset => exact ⟨rfl, rfl⟩

end Sys2Proof.Machine

/-! ## A result stays until the next command (44_dispatcher.md R239; 60_exceptions.md R285) -/

namespace Sys2Proof.Machine

/-- No event ends a command in IDLE, where none is outstanding (R279). -/
theorem enabledIn_idle_of_transportError {x : Input} {e : Error} (he : transportError x = some e) :
    enabledIn .idle x = false := by
  cases x with
  | txDone | rxFrame | rxFail | rxTimeout | abort => rfl
  | cmd | setUnit | read | conv | reset => cases he

/-- In IDLE the result registers and elements are the next command's and `Reset`'s to write (R239, R285). -/
theorem Effect.keeps_results {s t : State} {x : Input} (h : Effect s x t) (hp : s.phase = .idle)
    (hcmd : ∀ c, x ≠ .cmd c) (hreset : x ≠ .reset) :
    t.resValid = s.resValid ∧ t.resStatus = s.resStatus ∧ t.resDetail = s.resDetail ∧ t.resExc = s.resExc ∧
      t.resOk = s.resOk ∧ t.resKind = s.resKind ∧ t.resCount = s.resCount ∧ t.resBits = s.resBits ∧
      t.resWords = s.resWords := by
  cases h with
  | refused | presented => exact absurd rfl (hcmd _)
  | reset => exact absurd rfl hreset
  | failed hx he => simp [hp, enabledIn_idle_of_transportError he] at hx
  | sent hsend => exact Phase.noConfusion (hp.symm.trans hsend)
  | answered hawait => exact Phase.noConfusion (hp.symm.trans hawait)
  | disabled | unitSet | shown | converted => simp

/-- Settles O42, over the effects of one event in IDLE. -/
theorem resultsStayUntilTheNextCommand : Obligations.ResultsStayUntilTheNextCommand := by
  intro s t x rest hvalid hp hi h hcmd hreset
  have hkeeps := (step_effect hi (mustWait_idle hp x) h).keeps_results hp hcmd hreset
  exact hvalid ▸ hkeeps

end Sys2Proof.Machine

/-! ## The bytes an instruction writes (20_memory.md R61, R62; 44_dispatcher.md R232, R234, R254) -/

namespace Sys2Proof.Machine

/-- A read after a frame has been written from offset 0. -/
theorem read_writeAll_zero (bytes : List Byte) (m : Memory) (a : Nat) :
    (m.writeAll 0 bytes).read a = if a < bytes.length then bytes[a]? else m.read a := by
  simp [Memory.read_writeAll]

/-- A request instruction writes `TXB` only, and only when it enters SEND: its frame, from offset 0 (R232). -/
theorem exec_request_bytes {i : Instr} {s t : State} {frame : List Byte}
    (hencode : encode s.tid s.cfgUnit i = .request frame) (h : exec i s = .next t) (a : Nat) :
    Memory.read t.txb a =
      (if s.phase = .idle ∧ t.phase = .send ∧ a < frame.length then frame[a]? else Memory.read s.txb a) ∧
    t.rxb = s.rxb := by
  obtain ⟨c, hc⟩ := encodeCommand_of_request hencode
  rw [exec_request hc] at h
  rcases command_cases h with ⟨hbusy, rfl⟩ | ⟨-, d, -, rfl⟩ | ⟨hp, frame', he, -, rfl⟩
  · simp [hbusy]
  · simp
  · obtain ⟨hown, -⟩ := encode_of_enc hc he
    cases hencode.symm.trans hown
    simp [hp, read_writeAll_zero]

/-- A response instruction writes `RXB` only, and only in AWAIT: its frame's first 259 bytes, from offset 0 (R234). -/
theorem exec_response_bytes {i : Instr} {s t : State} {u : Word} {v : Byte} {raw : List Byte}
    (hencode : encode u v i = .response raw) (h : exec i s = .next t) (a : Nat) :
    Memory.read t.rxb a =
      (if s.phase = .await ∧ a < min raw.length 259 then raw[a]? else Memory.read s.rxb a) ∧
    t.txb = s.txb := by
  rw [exec_response_dec hencode, receive_eq] at h
  by_cases hp : s.phase = .await
  · rw [if_pos hp] at h
    cases h
    by_cases ha : a < 259 <;> simp [hp, read_writeAll_zero, ha]
  · rw [if_neg hp] at h
    cases h
    simp [hp]

/-- Settles O43, by the port that the encoding belongs to. -/
theorem bytesOutsideTheFrameStay : Obligations.BytesOutsideTheFrameStay := by
  intro s t i h a
  cases hencode : encode s.tid s.cfgUnit i with
  | request frame =>
    obtain ⟨htxb, hrxb⟩ := exec_request_bytes hencode h a
    exact ⟨htxb, by rw [hrxb]⟩
  | response raw =>
    obtain ⟨hrxb, htxb⟩ := exec_response_bytes hencode h a
    exact ⟨hrxb, by rw [htxb]⟩
  | conv p =>
    obtain ⟨out, hout⟩ := exec_conv hencode s
    cases hout.symm.trans h
    exact ⟨rfl, rfl⟩

end Sys2Proof.Machine

/-! ## Every accepted command ends (44_dispatcher.md R231, R251, R252) -/

namespace Sys2Proof.Machine

/-- A run whose first step answers a next state goes on from there. -/
theorem run_of_step {s t : State} (h : step s = .next t) (k : Nat) :
    Sys2Proof.core.run (k + 1) s = Sys2Proof.core.run k t := by
  have hcore : Sys2Proof.core.step s = .next t := h
  simp only [Host.Core.run, hcore]

/-- The answers of R231 in two groups: one event that ends the command in SEND, or TX_DONE(true) and then one that
ends it in AWAIT. -/
theorem transportAnswer_cases {answer : List Input} (h : transportAnswer answer = true) :
    (∃ x, answer = [x] ∧ enabledIn .send x = true ∧ (transportError x).isSome = true) ∨
    (∃ x, answer = [.txDone true, x] ∧ enabledIn .await x = true ∧
      ((transportError x).isSome = true ∨ ∃ raw, x = .rxFrame raw ∧ raw ≠ [])) := by
  unfold transportAnswer at h
  split at h
  · exact .inl ⟨_, rfl, rfl, rfl⟩
  · exact .inr ⟨_, rfl, rfl, .inr ⟨_, rfl, by simpa using h⟩⟩
  · exact .inr ⟨_, rfl, rfl, .inl rfl⟩
  · exact .inr ⟨_, rfl, rfl, .inl rfl⟩
  · exact .inr ⟨_, rfl, rfl, .inl rfl⟩
  · exact .inl ⟨_, rfl, rfl, rfl⟩
  · cases h

/-- An event with an error ends the command in flight in its own step (R280). -/
theorem step_ends_of_transportError {s : State} {x : Input} {rest : List Input} (hi : s.inputs = x :: rest)
    (hx : enabledIn s.phase x = true) (he : (transportError x).isSome = true) :
    ∃ t, step s = .next t ∧ commandEnded t ∧ t.inputs = rest := by
  obtain ⟨e, he⟩ := Option.isSome_iff_exists.1 he
  exact ⟨_, step_transportError hi hx he, ⟨rfl, rfl⟩, rfl⟩

/-- A frame with bytes ends the command in flight in its own step, whatever `DEC` answers (R234). -/
theorem step_ends_of_rxFrame {s : State} {raw : List Byte} {rest : List Input} (hi : s.inputs = .rxFrame raw :: rest)
    (hp : s.phase = .await) (hraw : raw ≠ []) :
    ∃ t, step s = .next t ∧ commandEnded t ∧ t.inputs = rest := by
  refine ⟨_, (step_head hi rfl).trans (acceptFrame_await (s := { s with inputs := rest }) hp hraw), ⟨?_, ?_⟩, ?_⟩ <;> simp

/-- From SEND, every answer of the transport ends the command in one step for each of its events (R251, R252). -/
theorem run_ends_of_answer {s : State} {answer rest : List Input} (hp : s.phase = .send)
    (hi : s.inputs = answer ++ rest) (ha : transportAnswer answer = true) :
    ∃ t, Sys2Proof.core.run answer.length s = .next t ∧ commandEnded t ∧ t.inputs = rest := by
  rcases transportAnswer_cases ha with ⟨x, rfl, hx, he⟩ | ⟨x, rfl, hx, hends⟩
  · obtain ⟨t, hstep, hended⟩ := step_ends_of_transportError hi (hp ▸ hx) he
    exact ⟨t, run_of_step hstep 0, hended⟩
  · obtain ⟨t, hstep, hended⟩ : ∃ t, step { s with phase := .await, inputs := x :: rest } = .next t ∧
        commandEnded t ∧ t.inputs = rest := by
      rcases hends with he | ⟨raw, rfl, hraw⟩
      · exact step_ends_of_transportError rfl hx he
      · exact step_ends_of_rxFrame rfl rfl hraw
    exact ⟨t, (run_of_step (step_sent hp hi) 1).trans (run_of_step hstep 0), hended⟩

/-- Settles O44: one step presents the command, the answer's events end it; a refusal ends it at once. -/
theorem acceptedCommandEnds : Obligations.AcceptedCommandEnds := by
  intro s c answer rest hp
  refine ⟨fun frame he ha hi => ?_, fun d he hi => ?_⟩
  · rw [Nat.add_comm, run_of_step (step_presents hp he hi)]
    exact run_ends_of_answer rfl rfl ha
  · exact ⟨_, run_of_step (step_refuses hp he hi) 0, ⟨rfl, rfl⟩, rfl⟩

end Sys2Proof.Machine

/-! ## Host reads (44_dispatcher.md R239; 10_state.md R37) -/

namespace Sys2Proof.Machine

/-- The latch, `TX_LEN` and `RX_EXPECT` are shown in SEND and AWAIT (R23, R37). -/
theorem shown_inFlight {w : Nat} (s : State) (x : BitVec w) :
    shown w (inFlight s) x = if s.phase = .send ∨ s.phase = .await then some (x.setWidth 16) else none := by
  simp [shown, inFlight]

/-- `RX_LEN` is shown once it is not 0 (R37; the model's choice, log entry 2). -/
theorem shown_nonzero {w : Nat} (x y : BitVec w) :
    shown w (decide (x ≠ y)) x = if x = y then none else some (x.setWidth 16) := by
  by_cases h : x = y <;> simp [shown, h]

/-- An element of a result is shown while the result is valid, below `RES_COUNT`, where the buffer holds it (R33,
R37). -/
theorem shown_element {α : Type} {w : Nat} (valid : Bool) (n i : Nat) (l : List α) (default : α) (f : α → BitVec w) :
    shown w (valid && decide (i < n) && decide (i < l.length)) (f (l.getD i default)) =
      if valid = true ∧ i < n then l[i]?.map (fun x => (f x).setWidth 16) else none := by
  by_cases hl : i < l.length <;> simp [shown, hl]

/-- A one-bit register as a 16-bit number (R32). -/
theorem setWidth_bit (b : Bool) : (bit b).setWidth 16 = if b then 1 else 0 := by
  cases b <;> rfl

/-- Settles O38: what a read shows does not depend on the ports' lists or on what was shown before. That it goes on and
shows nothing where the state read holds no value is the model's choice (log entry 2). -/
theorem hostReadsChangeNoRegister : Obligations.HostReadsChangeNoRegister := by
  intro s r rest hi hexists
  refine ⟨readReg s r, ?_, readReg_with_ports s rest _ r, ?_⟩
  · rw [step_head hi rfl, accept, hostRead, if_pos hexists]
    exact congrArg (fun v => Host.Outcome.next { s with inputs := rest, readOut := v })
      (readReg_with_ports s rest s.readOut r)
  · cases r with
    | tid => exact congrArg some (BitVec.setWidth_eq _)
    | cfgUnit => rfl
    | phase => cases hp : s.phase <;> simp only [readReg, hp] <;> rfl
    | pendTid | pendAddr | pendQv => exact (shown_inFlight s _).trans (by rw [BitVec.setWidth_eq])
    | pendUnit | pendFc | txLen | rxExpect => exact shown_inFlight s _
    | rxLen => exact shown_nonzero _ _
    | resValid => exact congrArg some (setWidth_bit _)
    | resStatus => cases hs : s.resStatus <;> simp only [readReg, hs] <;> rfl
    | resDetail | resExc | resCount => rfl
    | resOk => exact congrArg (fun v => if s.resValid then some v else none) (setWidth_bit s.resOk)
    | resKind => cases hk : s.resKind <;> simp only [readReg, hk] <;> rfl
    | resBit i =>
      refine (shown_element _ _ _ _ _ bit).trans ?_
      simp only [setWidth_bit]
    | resWord i =>
      refine (shown_element _ _ _ _ _ id).trans ?_
      simp

end Sys2Proof.Machine

/-! ## Events and responses outside their phase (60_exceptions.md R279) -/

namespace Sys2Proof.Machine

/-- An event outside the phases that have its step leaves every register unchanged (R249, R279). -/
theorem accept_disabled {x : Input} {s : State} (hx : enabledIn s.phase x = false) : accept x s = .next s := by
  cases x with
  | cmd c => rw [accept, acceptCommand_eq, command_busy _ _ _ _ (of_decide_eq_false hx)]
  | txDone ok => rw [accept, txDone, if_neg (of_decide_eq_false hx)]
  | rxFrame raw => rw [accept, acceptFrame, if_neg (of_decide_eq_false hx)]
  | rxFail => rw [accept, rxFail, if_neg (of_decide_eq_false hx)]
  | rxTimeout => rw [accept, rxTimeout, if_neg (of_decide_eq_false hx)]
  | abort => rw [accept, abort, if_neg (of_decide_eq_false hx)]
  | setUnit | read | conv | reset => cases hx

/-- The step on such an event, where it does not wait: it is not latched (R279), and leaves the list of inputs. -/
theorem step_disabled {s : State} {x : Input} {rest : List Input} (hi : s.inputs = x :: rest)
    (hw : mustWait s.phase x = false) (hx : enabledIn s.phase x = false) :
    step s = .next { s with inputs := rest } := by
  rw [step_head hi hw, accept_disabled (s := { s with inputs := rest }) hx]

/-- Settles O34: outside its phase each of the five transport events is disabled, and none of them waits. That the
event is taken from the list of inputs is the model's choice (log entry 7). -/
theorem eventsOutsideTheirPhaseDoNothing : Obligations.EventsOutsideTheirPhaseDoNothing := by
  intro s x rest hi
  refine ⟨?_, ?_, ?_⟩
  · rintro (⟨raw, rfl⟩ | rfl | rfl) hp <;> exact step_disabled hi rfl (decide_eq_false hp)
  · rintro ⟨ok, rfl⟩ hp
    exact step_disabled hi rfl (decide_eq_false hp)
  · rintro rfl hsend hawait
    exact step_disabled hi rfl (decide_eq_false (not_or.2 ⟨hsend, hawait⟩))

/-- Settles O35: a response instruction is the RX_FRAME step, which is not enabled outside AWAIT. That `exec` answers
the unchanged state is the model's choice (log entry 20). -/
theorem responsesOutsideAwaitDoNothing : Obligations.ResponsesOutsideAwaitDoNothing := by
  intro s i t u raw hencode hp
  rw [exec_response_dec hencode, receive_eq, if_neg hp]

end Sys2Proof.Machine

/-! ## Reset (70_reset_and_hazards.md R310; 10_state.md R35, R37) -/

namespace Sys2Proof.Machine

@[simp] theorem resetBlock_rxLen (s : State) : (resetBlock s).rxLen = 0 := rfl

/-- The step on `Reset`, in any phase. -/
theorem step_reset {s : State} {rest : List Input} (hi : s.inputs = .reset :: rest) :
    step s = .next (resetBlock { s with inputs := rest }) :=
  step_head hi rfl

/-- A register that holds no value shows none (R37). -/
@[simp] theorem shown_false (w : Nat) (x : BitVec w) : shown w false x = none := rfl

/-- With no command outstanding, no response received and no result, only the four registers that always hold a value
show one (R37). -/
theorem readReg_eq_none {s : State} {r : HostReg} (hphase : s.phase = .idle) (hrxLen : s.rxLen = 0)
    (hvalid : s.resValid = false) (htid : r ≠ .tid) (hnphase : r ≠ .phase) (hunit : r ≠ .cfgUnit)
    (hnvalid : r ≠ .resValid) : readReg s r = none := by
  cases r with
  | tid => exact absurd rfl htid
  | phase => exact absurd rfl hnphase
  | cfgUnit => exact absurd rfl hunit
  | resValid => exact absurd rfl hnvalid
  | pendTid | pendUnit | pendFc | pendAddr | pendQv | txLen | rxExpect =>
    exact (shown_inFlight s _).trans (if_neg (by simp [hphase]))
  | rxLen => exact (shown_nonzero _ _).trans (if_pos hrxLen)
  | resStatus | resDetail | resExc | resOk | resKind | resCount | resBit | resWord => simp [readReg, hvalid]

/-- Settles O37: `Reset` leaves the block in IDLE with `RX_LEN` 0, `RES_VALID` 0 and both buffers empty. That the inputs
the environment still holds stay is the model's choice (log entry 16). -/
theorem resetLeavesNoOtherValue : Obligations.ResetLeavesNoOtherValue := by
  intro s rest hi
  refine ⟨_, step_reset hi, resetBlock_tid _, resetBlock_phase _, resetBlock_cfgUnit _, resetBlock_resValid _,
    resetBlock_inputs _, fun r => ?_, fun a => ?_⟩
  · exact readReg_eq_none (resetBlock_phase _) (resetBlock_rxLen _) (resetBlock_resValid _)
  · simp

end Sys2Proof.Machine
